-- ==== Sys2Proof/Word.lean ====
section
/-! DEFINITION. The two word types of the FTB: the byte every storage access moves (spec/20_memory.md R63, R65) and the
16-bit value of a checksum or of an extended length (spec/30_encoding.md R96). -/

namespace Sys2Proof

/-- One byte, an unsigned value 0 to 255 (spec/00_scope.md R6). -/
abbrev Byte := BitVec 8

/-- A 16-bit value: a checksum or a two-byte length (spec/30_encoding.md R96). -/
abbrev Half := BitVec 16

end Sys2Proof
end

