-- ==== Sys2Proof/Config.lean ====
section
/-! DEFINITION. The parameters of the FTB (spec/00_scope.md R5), the names its open choices have, and the free values: the
constants without a body that stand for what the spec leaves unspecified. -/

namespace Sys2Proof.Config

/-- `REASM_CAP`, the capacity of the reassembly buffer, fixed (R5, R26). -/
def reasmCap : Nat := 256

/-- `RETRY_ROUNDS`, the polling rounds of one RECV, fixed (R5, R178). -/
def retryRounds : Nat := 10

/-- `TAG_SHORT`, byte 0 of a short frame (R5, R91). -/
def tagShort : Byte := 0x02#8

/-- `TAG_EXT`, byte 0 of an extended frame (R5, R92). -/
def tagExt : Byte := 0x03#8

/-- `END_MARKER`, the last byte of every frame (R5, R91, R92). -/
def endMarker : Byte := 0x03#8

/-- `SHORT_MAX`, the largest payload of a short frame (R5). -/
def shortMax : Nat := 255

/-- `MIN_GET_VALUES`, the smallest GET_VALUES payload the host accepts (R5, R215). -/
def minGetValues : Nat := 55

/-- The setting `XSIDE_VIEW` (R5, R72): what one side of a ring reads of the index the other side owns. -/
inductive XsideView where
  /-- every read gives the value last written (the default) -/
  | exact
  /-- a read may give any value the index has held since this side last read it, never an older one -/
  | staleMonotone
deriving DecidableEq, Repr

/-- Which checksum function the block is configured with (`CRC16` of R5). -/
inductive CrcChoice where
  /-- the recommended instance of spec/41_checksum_and_frame_codec.md R152, CRC-16/XMODEM -/
  | xmodem
  /-- any other function: nothing is known of it (R151, D16); the number tells two such functions apart -/
  | other (which : Nat)
deriving DecidableEq, Repr

/-- The four byte arrays (spec/20_memory.md R60). -/
inductive ArrayId where
  | rxbuf | txbuf | kc | rb
deriving DecidableEq, Repr

/-- The parameters of spec/00_scope.md R5 that are OPEN. They are data of the state that no step writes, so that a statement
about every state is a statement about every choice of them (notes/assumptions/1.md). The defaults are those of R5. -/
structure Params where
  /-- `RX_N`, logical capacity of the RX ring -/
  rxN : Nat := 127
  /-- `TX_N`, logical capacity of the TX ring -/
  txN : Nat := 127
  /-- `PAYLOAD_MAX`, the largest payload BUILD accepts -/
  payloadMax : Nat := 256
  /-- `CRC16` -/
  crc : CrcChoice := .xmodem
  /-- `REASM_FULL_WINS` -/
  reasmFullWins : Bool := true
  /-- `TXW_SPLIT_COMMIT` -/
  txwSplitCommit : Bool := false
  /-- `LINE_NESTING` -/
  lineNesting : Bool := false
  /-- `XSIDE_VIEW` -/
  xsideView : XsideView := .exact
  /-- `KA_PERIOD`, read by no rule (D27); R5 gives no default, the 0 is DESIGN CHOICE (notes/assumptions/2.md) -/
  kaPeriod : Nat := 0
  /-- `ROUND_YIELD`, read by no rule (D27); R5 gives no default, the 0 is DESIGN CHOICE (notes/assumptions/2.md) -/
  roundYield : Nat := 0
  /-- `CMD_GET_VALUES`, host side only; the value is the spec's G2 (R216) -/
  cmdGetValues : Byte := 4#8
  /-- `CMD_SET_DUTY` (R216, G2) -/
  cmdSetDuty : Byte := 5#8
  /-- `CMD_SET_CURRENT` (R216, G2) -/
  cmdSetCurrent : Byte := 6#8
  /-- `CMD_SET_CURRENT_BRAKE` (R216, G2) -/
  cmdSetCurrentBrake : Byte := 7#8
  /-- `CMD_SET_RPM` (R216, G2) -/
  cmdSetRpm : Byte := 8#8
deriving DecidableEq, Repr

/-- `RX_CAP`, the slots of the RX array (R5). -/
def Params.rxCap (p : Params) : Nat := p.rxN + 1

/-- `TX_CAP`, the slots of the TX array (R5). -/
def Params.txCap (p : Params) : Nat := p.txN + 1

/-- `FRAME_CAP`, the capacity of the cache and of a frame operand (R5). -/
def Params.frameCap (p : Params) : Nat := if p.payloadMax ≤ 255 then p.payloadMax + 5 else p.payloadMax + 6

/-- `ceil(log2(n))`: the bits that hold the values `0 .. n - 1` (R5, R20). -/
def ceilLog2 (n : Nat) : Nat := if n ≤ 1 then 0 else Nat.log2 (n - 1) + 1

/-- `IDXW_RX`, the width of `RXH` and `RXT` (R5). -/
def Params.idxwRx (p : Params) : Nat := ceilLog2 p.rxCap

/-- `IDXW_TX`, the width of `TXH`, `TXT`, `WH` and `WN` (R5, R28). -/
def Params.idxwTx (p : Params) : Nat := ceilLog2 p.txCap

/-- The width of `KLEN`, `RLEN` and `RI`, `ceil(log2(FRAME_CAP + 1))` (R20, R29). -/
def Params.lenWidth (p : Params) : Nat := ceilLog2 (p.frameCap + 1)

/-- The ranges R5 states for the open parameters. -/
def Params.wf (p : Params) : Bool :=
  decide (1 ≤ p.rxN) && decide (1 ≤ p.txN) && decide (1 ≤ p.payloadMax) && decide (p.payloadMax ≤ 65535)

/-- FREE VALUE: the checksum functions about which the spec fixes nothing (R151, D16; notes/assumptions/3.md). -/
opaque crcOther : Nat → List Byte → Half

/-- FREE VALUE: what an array cell that nothing has written since reset number `epoch` reads as (R50, U9;
notes/assumptions/4.md). -/
opaque unspecifiedCell : Nat → ArrayId → Nat → Byte

/-- FREE VALUE: which of the values a stale reader may see it does see, at its `n`-th read (R72;
notes/assumptions/5.md). -/
opaque staleChoice : Nat → Nat

end Sys2Proof.Config
end

