-- ==== Sys2Proof/Syntax.lean ====
section
/-! DEFINITION. The items of the FTB: one constructor for every row of spec/opcode_table.json. An item is a main-side
operation (spec/30_encoding.md R100), a line-side event (R101), an action of the environment (R103), or a wire frame
(R91, R92), which is no operation but what the serial line carries. -/

namespace Sys2Proof

/-- One item. Byte-sequence operands carry their length as the length of the list (R103). -/
inductive Instr where
  /-- TXW, write one byte to the TX ring (R121 to R123) -/
  | txw (b : Byte)
  /-- RXR, read one byte from the RX ring (R129) -/
  | rxr
  /-- RXOCC, used slots of the RX ring (R131) -/
  | rxocc
  /-- RXAVL, free slots of the RX ring (R133) -/
  | rxavl
  /-- TXOCC, used slots of the TX ring (R135) -/
  | txocc
  /-- TXAVL, free slots of the TX ring (R136) -/
  | txavl
  /-- CRC16, the checksum of a byte sequence (R151) -/
  | crc16 (bytes : List Byte)
  /-- BUILD, the frame of a payload (R155) -/
  | build (payload : List Byte)
  /-- UNPACK, validate a frame (R158) -/
  | unpack (frame : List Byte)
  /-- STORE, put a frame into the keep-alive cache (R190) -/
  | store (frame : List Byte)
  /-- RECV, reassemble a frame from the RX ring (R170) -/
  | recv
  /-- RXPUSH, the line delivers a byte (R128) -/
  | rxpush (d : Byte)
  /-- TXPOP, the line takes a byte (R126) -/
  | txpop
  /-- TICK, the keep-alive timer (R194) -/
  | tick
  /-- `.abort 0`, the environment drives `abort` low (R41) -/
  | abort0
  /-- `.abort 1`, the environment drives `abort` high (R41) -/
  | abort1
  /-- `.rst`, the environment pulses `rst` (R42) -/
  | rst
  /-- FRAME.SHORT, a short frame on the wire: its payload and the checksum it carries (R91) -/
  | frameShort (payload : List Byte) (crc : Half)
  /-- FRAME.EXT, an extended frame on the wire: its payload and the checksum it carries (R92) -/
  | frameExt (payload : List Byte) (crc : Half)
  /-- the reserved `m_op` 0x0 (R102) -/
  | reserved0
  /-- the reserved `m_op` 0xC (R102) -/
  | reservedC
  /-- the reserved `m_op` 0xD (R102) -/
  | reservedD
  /-- the reserved `m_op` 0xE (R102) -/
  | reservedE
  /-- the reserved `m_op` 0xF (R102) -/
  | reservedF
deriving DecidableEq, Repr

/-- Where an item enters the block (spec/10_state.md R40, spec/60_exceptions.md R245). -/
inductive Port where
  /-- `m_cmd`: a main-side operation -/
  | main
  /-- `l_rx`, `l_txrdy` or `l_tick`: a line-side event -/
  | line
  /-- the inputs `abort` and `rst` -/
  | env
  /-- the serial line itself: a frame still outside the block -/
  | wire
deriving DecidableEq, Repr

/-- The port an item enters by (R100, R101, R103). -/
def Instr.port : Instr → Port
  | .txw _ => .main
  | .rxr => .main
  | .rxocc => .main
  | .rxavl => .main
  | .txocc => .main
  | .txavl => .main
  | .crc16 _ => .main
  | .build _ => .main
  | .unpack _ => .main
  | .store _ => .main
  | .recv => .main
  | .rxpush _ => .line
  | .txpop => .line
  | .tick => .line
  | .abort0 => .env
  | .abort1 => .env
  | .rst => .env
  | .frameShort _ _ => .wire
  | .frameExt _ _ => .wire
  | .reserved0 => .main
  | .reservedC => .main
  | .reservedD => .main
  | .reservedE => .main
  | .reservedF => .main

end Sys2Proof
end

