-- ==== Sys2Proof/WellFormed.lean ====
section
/-! DEFINITION. Well-formed items: the operands fit the fields their encodings give them. -/

namespace Sys2Proof

/-- A byte-sequence operand fits its 16-bit length field (spec/30_encoding.md R103, D31). -/
def fitsLength16 (bytes : List Byte) : Bool := decide (bytes.length < 65536)

/-- The operand of an item fits its encoding: a sequence operand its 16-bit length (R103), a short frame's payload its
one-byte length (R91), an extended frame's payload the range of R92. -/
def Instr.wf : Instr → Bool
  | .crc16 bytes => fitsLength16 bytes
  | .build bytes => fitsLength16 bytes
  | .unpack bytes => fitsLength16 bytes
  | .store bytes => fitsLength16 bytes
  | .frameShort p _ => decide (p.length ≤ 255)
  | .frameExt p _ => decide (256 ≤ p.length) && decide (p.length ≤ 65535)
  | .txw _ => true
  | .rxr => true
  | .rxocc => true
  | .rxavl => true
  | .txocc => true
  | .txavl => true
  | .recv => true
  | .rxpush _ => true
  | .txpop => true
  | .tick => true
  | .abort0 => true
  | .abort1 => true
  | .rst => true
  | .reserved0 => true
  | .reservedC => true
  | .reservedD => true
  | .reservedE => true
  | .reservedF => true

end Sys2Proof
end

