-- ==== Sys2Proof/Decode.lean ====
section
/-! DEFINITION. The two encodings of spec/30_encoding.md R90, kept apart: the trace encoding of items (R103), with its decoder
and encoder, and the wire frame formats (R91, R92), with theirs. -/

namespace Sys2Proof

/-- The high byte `v[15:8]` of a 16-bit field (R96). -/
def hiByte (v : Half) : Byte := v.extractLsb' 8 8

/-- The low byte `v[7:0]` of a 16-bit field (R96). -/
def loByte (v : Half) : Byte := v.extractLsb' 0 8

/-- `{hi, lo} = hi * 256 + lo` (R96). -/
def half (hi lo : Byte) : Half := hi ++ lo

/-- Why a byte sequence is not a trace item. -/
inductive DecodeError where
  /-- the first byte is none of those R103 lists (D8.3); the reserved `l_ev` 3 is among them (R102) -/
  | notATraceItem (first : Byte)
  /-- the item that this first byte opens needs more operand bytes than there are -/
  | truncatedItem (first : Byte)
deriving DecidableEq, Repr

/-- What stands at the head of a trace. -/
inductive Fetched where
  /-- the trace is at its end -/
  | none
  /-- an item, and the trace after it -/
  | item (i : Instr) (rest : List Byte)
  /-- no item of R103 -/
  | bad (e : DecodeError)
deriving DecidableEq, Repr

/-- An item with one operand byte (R103: TXW, RXPUSH). -/
def fetchByte (first : Byte) (mk : Byte → Instr) : List Byte → Fetched
  | [] => .bad (.truncatedItem first)
  | b :: rest => .item (mk b) rest

/-- An item with two bytes of length, high byte first, and that many bytes (R103: CRC16, BUILD, UNPACK, STORE). -/
def fetchBytes (first : Byte) (mk : List Byte → Instr) : List Byte → Fetched
  | hi :: lo :: rest =>
    let n := (half hi lo).toNat
    if n ≤ rest.length then .item (mk (rest.take n)) (rest.drop n) else .bad (.truncatedItem first)
  | _ => .bad (.truncatedItem first)

/-- The trace decoder (R103): total, and it refuses by name every byte that opens no item. -/
def decodeItem : List Byte → Fetched
  | [] => .none
  | c :: rest =>
    match c.toNat with
    | 0x00 => .item .reserved0 rest
    | 0x01 => fetchByte c .txw rest
    | 0x02 => .item .rxr rest
    | 0x03 => .item .rxocc rest
    | 0x04 => .item .rxavl rest
    | 0x05 => .item .txocc rest
    | 0x06 => .item .txavl rest
    | 0x07 => fetchBytes c .crc16 rest
    | 0x08 => fetchBytes c .build rest
    | 0x09 => fetchBytes c .unpack rest
    | 0x0A => fetchBytes c .store rest
    | 0x0B => .item .recv rest
    | 0x0C => .item .reservedC rest
    | 0x0D => .item .reservedD rest
    | 0x0E => .item .reservedE rest
    | 0x0F => .item .reservedF rest
    | 0x10 => fetchByte c .rxpush rest
    | 0x11 => .item .txpop rest
    | 0x12 => .item .tick rest
    | 0x20 => .item .abort0 rest
    | 0x21 => .item .abort1 rest
    | 0x22 => .item .rst rest
    | _ => .bad (.notATraceItem c)

/-- A length operand and its bytes (R103): two bytes of length, high byte first, then the bytes. -/
def lengthAndBytes (bytes : List Byte) : List Byte :=
  let n : Half := BitVec.ofNat 16 bytes.length
  hiByte n :: loByte n :: bytes

/-- The bytes of a short frame (R91): TypeTag, LengthByte, payload, checksum high byte first, EndMarker. -/
def shortFrame (payload : List Byte) (crc : Half) : List Byte :=
  [Config.tagShort, BitVec.ofNat 8 payload.length] ++ payload ++ [hiByte crc, loByte crc, Config.endMarker]

/-- The bytes of an extended frame (R92): as R91 with a two-byte length, high byte first. -/
def extFrame (payload : List Byte) (crc : Half) : List Byte :=
  [Config.tagExt, hiByte (BitVec.ofNat 16 payload.length), loByte (BitVec.ofNat 16 payload.length)] ++ payload ++
    [hiByte crc, loByte crc, Config.endMarker]

/-- The encoder: an item's bytes in a trace (R103); of a wire frame, its bytes on the line (R91, R92). -/
def encode : Instr → List Byte
  | .reserved0 => [0x00#8]
  | .txw b => [0x01#8, b]
  | .rxr => [0x02#8]
  | .rxocc => [0x03#8]
  | .rxavl => [0x04#8]
  | .txocc => [0x05#8]
  | .txavl => [0x06#8]
  | .crc16 bytes => 0x07#8 :: lengthAndBytes bytes
  | .build bytes => 0x08#8 :: lengthAndBytes bytes
  | .unpack bytes => 0x09#8 :: lengthAndBytes bytes
  | .store bytes => 0x0A#8 :: lengthAndBytes bytes
  | .recv => [0x0B#8]
  | .reservedC => [0x0C#8]
  | .reservedD => [0x0D#8]
  | .reservedE => [0x0E#8]
  | .reservedF => [0x0F#8]
  | .rxpush d => [0x10#8, d]
  | .txpop => [0x11#8]
  | .tick => [0x12#8]
  | .abort0 => [0x20#8]
  | .abort1 => [0x21#8]
  | .rst => [0x22#8]
  | .frameShort p c => shortFrame p c
  | .frameExt p c => extFrame p c

/-- The bytes between a frame's header and its last three bytes, and those three: what both frame shapes share (R91, R92). -/
def splitBody (mk : List Byte → Half → Instr) (n : Nat) (body : List Byte) : Option Instr :=
  match body.drop n with
  | [hi, lo, e] => if e = Config.endMarker then some (mk (body.take n) (half hi lo)) else none
  | _ => none

/-- The reader of the wire formats (R91, R92, R94): one whole frame, or nothing. It is not what RECV does (R94: the receiver
does not read the extended length); it says which byte sequences are frames. -/
def decodeFrame : List Byte → Option Instr
  | t :: rest =>
    if t = Config.tagShort then
      match rest with
      | len :: body => splitBody .frameShort len.toNat body
      | [] => none
    else if t = Config.tagExt then
      match rest with
      | hi :: lo :: body => if 256 ≤ (half hi lo).toNat then splitBody .frameExt (half hi lo).toNat body else none
      | _ => none
    else none
  | [] => none

/-- The first `n` bytes of a number, its least significant byte first. -/
def wordBytes : Nat → Nat → List Byte
  | 0, _ => []
  | n + 1, w => BitVec.ofNat 8 (w % 256) :: wordBytes n (w / 256)

/-- The bytes of an item whose first `nbits` bits are `w` and whose other bits are 0: as many zeros follow as the longest item
that begins with these bytes can need (one operand byte, or the two length bytes and the operand they announce). -/
def paddedBytes (nbits w : Nat) : List Byte :=
  let bs := wordBytes (nbits / 8) w
  bs ++ List.replicate (3 + (half (bs.getD 1 0#8) (bs.getD 2 0#8)).toNat) 0#8

/-- The item the trace decoder reads from the word `w` of `nbits` bits. -/
def decodeTableWord (nbits w : Nat) : Option Instr :=
  match decodeItem (paddedBytes nbits w) with
  | .item i _ => some i
  | _ => none

/-- The trace bytes of the item whose first `nbits` bits are `w`, and nothing after it; where they open no item, the bytes
themselves. -/
def tableWordBytes (nbits w : Nat) : List Byte :=
  match decodeItem (paddedBytes nbits w) with
  | .item i _ => encode i
  | _ => wordBytes (nbits / 8) w

/-- What a search for the next servable item of a trace finds. -/
inductive Found where
  /-- no such item -/
  | none
  /-- the item, and the trace with its bytes taken out -/
  | item (i : Instr) (rest : List Byte)
  /-- the search meets bytes that are no item -/
  | bad (e : DecodeError)
deriving DecidableEq, Repr

/-- The first item of a trace that `may` allows, looking past those it does not (R103: while an operation holds, the items
of the other agents "that follow it in the trace are served while it holds"). The first argument bounds the items looked
at. -/
def findItem (may : Instr → Bool) : Nat → List Byte → Found
  | 0, _ => .none
  | fuel + 1, bs =>
    match decodeItem bs with
    | .none => .none
    | .bad e => .bad e
    | .item i rest =>
      if may i then .item i rest
      else
        match findItem may fuel rest with
        | .item j rest' => .item j (encode i ++ rest')
        | r => r

end Sys2Proof
end

