-- ==== Sys2Proof/Machine/State.lean ====
section
/-! DEFINITION. "Log <n>" is notes/assumptions/<n>.md. The state of the FTB as plain data (spec/10_state.md R20 to R50), with the environment that drives it (R45,
R46), the reasons a step can stop, and the state after reset (R50, R260). -/

namespace Sys2Proof.Machine

/-- The contents of one byte array: the cells something has written since reset, by rising index. A cell that is not listed
holds no value (R50); `readCell` in Ops.lean says what reading it gives. -/
abbrev Mem := List Host.Cell

/-- The result codes of an operation (spec/30_encoding.md R105). Code 7 is never returned, so it has no constructor (U11). -/
inductive Status where
  | ok | timedOut | overflowed | crcMismatch | malformed | aborted | badOperand
deriving DecidableEq, Repr

/-- What `m_rsp` carries beside the status (R40, R107). A failure carries nothing (R184, U16). -/
inductive RspValue where
  /-- nothing beside the status -/
  | nothing
  /-- `nodata = 0` and the byte RXR returns -/
  | byte (b : Byte)
  /-- `nodata = 1` -/
  | noData
  /-- the count of an occupancy query -/
  | count (n : Nat)
  /-- the value of CRC16 -/
  | checksum (c : Half)
  /-- a length and the bytes it counts: a frame (BUILD) or a payload (UNPACK, RECV) -/
  | bytes (n : Nat) (bs : List Byte)
deriving DecidableEq, Repr

/-- One transaction on `m_rsp` (R40). -/
structure Response where
  status : Status
  value : RspValue
deriving DecidableEq, Repr

/-- Where a TXW in flight stands. -/
inductive TxwStage where
  /-- at TXW.wait, the ring having been full (R121; `TXW_SPLIT_COMMIT = false`) -/
  | wait
  /-- before W2, with `WH` and `WN` (R123) -/
  | w2 (wh wn : Nat)
  /-- before W3 -/
  | w3 (wh wn : Nat)
  /-- before W4 -/
  | w4 (wh wn : Nat)
  /-- before W5 -/
  | w5 (wh wn : Nat)
deriving DecidableEq, Repr

/-- The TXW context (R28): the operand byte, and with the split commit the sampled head and its successor. -/
structure TxwCtx where
  b : Byte
  stage : TxwStage
deriving DecidableEq, Repr

/-- The next step of a STORE in flight (R27, R191). -/
inductive StoreStage where
  /-- copy byte `SI` -/
  | s2 (si : Nat)
  /-- record the length -/
  | s3
  /-- set validity -/
  | s4
deriving DecidableEq, Repr

/-- The next step of a RECV in flight (R171). -/
inductive RecvStage where
  | poll | take | yield
deriving DecidableEq, Repr

/-- The RECV context (R26): `RB`, `CNT`, `EXP` (`none` is `EXPV = 0`), `PLEN`, `ROUND` with the widths the rule gives. -/
structure RecvCtx where
  rb : Mem
  cnt : BitVec 9
  exp : Option (BitVec 9)
  plen : Byte
  round : BitVec 4
  stage : RecvStage
deriving DecidableEq, Repr

/-- The main-side operation in flight, at most one (R70 item 1). -/
inductive MainCtx where
  | idle
  /-- requested on `m_cmd` while the line side was in progress: no step of it has been taken (R70 item 3) -/
  | issued (i : Instr)
  | txw (c : TxwCtx)
  /-- the operand `f` and the next step (R27) -/
  | store (f : List Byte) (stage : StoreStage)
  | recv (c : RecvCtx)
deriving DecidableEq, Repr

/-- The RESEND context (R29): `RLEN`, `RI`, and the context of the TXW step in flight. -/
structure ResendCtx where
  rlen : Nat
  ri : Nat
  tx : Option TxwCtx
deriving DecidableEq, Repr

/-- The line-side operation in progress, at most one (R70 item 2). RXPUSH and TXPOP are one step, so only RESEND stays. -/
inductive LineCtx where
  | idle
  | resend (c : ResendCtx)
deriving DecidableEq, Repr

/-- The machine. -/
structure State where
  /-- the OPEN parameters of R5; no step writes them (R46) -/
  cfg : Config.Params
  /-- the MODEL's own: `rst` has been pulsed once, so that the rules apply (R262 item 1, U20; log 15) -/
  up : Bool
  /-- `RXBUF` (R20, R21) -/
  rxbuf : Mem
  /-- `RXH`, next write slot of the RX ring (R21) -/
  rxh : Nat
  /-- `RXT`, next read slot of the RX ring (R21) -/
  rxt : Nat
  /-- `TXBUF` (R20, R22) -/
  txbuf : Mem
  /-- `TXH`, next write slot of the TX ring (R22) -/
  txh : Nat
  /-- `TXT`, next read slot of the TX ring (R22) -/
  txt : Nat
  /-- `TXIE`, the transmit-ready enable (R22, R32), also the output `l_txie` (R40) -/
  txie : Bool
  /-- `KC`, the bytes of the cached frame (R24) -/
  kc : Mem
  /-- `KLEN`, the length of the cached frame (R24) -/
  klen : Nat
  /-- `KVALID`, the validity flag of the cache (R24, R32) -/
  kvalid : Bool
  /-- the main-side operation in flight with its context (R26 to R28, R30) -/
  main : MainCtx
  /-- the line-side operation in progress with its context (R29, R30) -/
  line : LineCtx
  /-- the input level `abort` (R41) -/
  abort : Bool
  /-- the wire-out trace: the bytes emitted on `l_txd` since reset, in order (R43) -/
  wireOut : List Byte
  /-- the wire-in trace: the bytes delivered on `l_rx` since reset, in order, the dropped ones too (R43) -/
  wireIn : List Byte
  /-- the results returned on `m_rsp` since reset, in order (R40; log 20) -/
  rsp : List Response
  /-- the run is marked: a reserved operation code was refused in it (R102 and the glossary's "refused";
  log 13) -/
  marked : Bool
  /-- the environment: the bytes of the trace still to be served, where pending line events wait (R45, R103) -/
  trace : List Byte
  /-- the MODEL's own, for the environment: at each step boundary of an operation in progress, whether a waiting event is
  served there (R46, R70 items 3 and 4); when it is used up none is, as in a byte trace (R103; log 11) -/
  sched : List Bool
  /-- the MODEL's own: earlier values of `RXT` that the RX producer may still read (R72) -/
  pastRxT : List Nat
  /-- earlier values of `RXH` that the RX consumer may still read (R72) -/
  pastRxH : List Nat
  /-- earlier values of `TXT` that a TX producer may still read (R72) -/
  pastTxT : List Nat
  /-- earlier values of `TXH` that the TX consumer may still read (R72) -/
  pastTxH : List Nat
  /-- the MODEL's own: how many resets have passed, which the free value of an unwritten cell depends on (R50) -/
  epoch : Nat
  /-- the MODEL's own: how many stale reads have been made, which the free choice of R72 depends on -/
  draws : Nat
deriving DecidableEq, Repr

/-- Why the machine stops with a fault. -/
inductive Fault where
  /-- An array access outside the array's index range, which R60 says does not exist. Raised by `readCell`, `readSpan` and
  `writeCell`. Safe: by R62 no run from reset gets there. -/
  | noSuchCell (array : Config.ArrayId) (index : Nat)
deriving DecidableEq, Repr

/-- Why the machine gives an item no meaning. -/
inductive Refusal where
  /-- An instruction without a meaning yet. Raised by exec's arms only. Safe. -/
  | notModelled (mnemonic : String)
  /-- A trace byte that opens no item of R103, the reserved `l_ev` 3 among them (R102, U10). Raised by the fetch of
  Scheduler.lean. Safe: the spec has the run marked and says nothing of it. -/
  | notATraceItem (first : Byte)
  /-- A trace that ends inside an item (R103). Raised by the fetch of Scheduler.lean. Safe: such bytes are no trace. -/
  | truncatedItem (first : Byte)
  /-- A main-side request while one is in flight (R70 item 1, D30, U12). Raised by `issue`. Safe: outside the contract. -/
  | requestInFlight
  /-- An operation or event before the first `rst`, when no rule applies (R262, U20). Raised by `issue` and `serve`.
  Safe: outside the contract. -/
  | beforeReset
deriving DecidableEq, Repr

/-- One step's outcome, or an operation's. -/
abbrev Result (α : Type) := Host.Outcome α Fault Refusal

/-- The machine right after `rst` (R50, R260): all four indices 0, `TXIE = 0`, `KVALID = 0`, `KLEN = 0`, nothing in flight,
no array cell holding a value, the wire traces empty. The parameters have R5's defaults; `abort` is low, as
spec/95_test_vectors.md starts (DESIGN CHOICE, notes/assumptions/6.md); nothing waits in the environment. -/
def State.reset : State where
  cfg := {}
  up := true
  rxbuf := []
  rxh := 0
  rxt := 0
  txbuf := []
  txh := 0
  txt := 0
  txie := false
  kc := []
  klen := 0
  kvalid := false
  main := .idle
  line := .idle
  abort := false
  wireOut := []
  wireIn := []
  rsp := []
  marked := false
  trace := []
  sched := []
  pastRxT := []
  pastRxH := []
  pastTxT := []
  pastTxH := []
  epoch := 0
  draws := 0

end Sys2Proof.Machine
end

