-- ==== Sys2Proof/Machine/Flags.lean ====
section
/-! DEFINITION. The derived conditions and counts of a ring (spec/10_state.md R33), the codes of a status
(spec/30_encoding.md R105), and `usable` (R106). The two stored flags, `TXIE` and `KVALID` (R32), are fields of State. -/

namespace Sys2Proof.Machine

/-- `empty(H, T)` (R33). -/
def ringEmpty (h t : Nat) : Bool := h == t

/-- The slot after `x` in an array of `cap` slots: `(x + 1) mod CAP` (R30, R33). -/
def nextSlot (x cap : Nat) : Nat := (x + 1) % cap

/-- `full(H, T, CAP)` (R33). -/
def ringFull (h t cap : Nat) : Bool := nextSlot h cap == t

/-- `occ(H, T, CAP) = (H - T) mod CAP`, the mathematical remainder (R6, R33). -/
def occ (h t cap : Nat) : Nat := (((h : Int) - (t : Int)) % (cap : Int)).toNat

/-- `avail(H, T, CAP) = N - occ(H, T, CAP)` with `CAP = N + 1` (R33). -/
def avail (h t cap : Nat) : Nat := cap - 1 - occ h t cap

/-- `status[2:0]` (R105). -/
def Status.code : Status → BitVec 3
  | .ok => 0#3
  | .timedOut => 1#3
  | .overflowed => 2#3
  | .crcMismatch => 3#3
  | .malformed => 4#3
  | .aborted => 5#3
  | .badOperand => 6#3

/-- `usable = (status = OK)`, all the document's Driver boundary sees of a result (R106, R213). -/
def Response.usable (r : Response) : Bool := r.status == .ok

end Sys2Proof.Machine
end

