-- ==== Sys2Proof/Machine/Ops.lean ====
section
/-! DEFINITION. The shared operations: sequencing of outcomes, byte arrays, ring indices and what the other side sees of them,
the result of an operation (the FTB has no exceptions: an operation that fails finishes with a status, spec/60_exceptions.md
R230), the two ways an item enters the block, and reset. -/

namespace Sys2Proof.Machine

/-- Go on with the value of an outcome, or stop where it stopped. -/
def andThen {α β : Type} (o : Result α) (f : α → Result β) : Result β :=
  match o with
  | .next a => f a
  | .fault e => .fault e
  | .refused e => .refused e

/-! ### Byte arrays (spec/20_memory.md R60 to R66) -/

/-- The byte a cell holds; `none` where it holds no value. -/
def Mem.read? : Mem → Nat → Option Byte
  | [], _ => none
  | (a, b) :: m, i => if a = i then some b else Mem.read? m i

/-- Put a byte into a cell, keeping the cells by rising index. -/
def Mem.write : Mem → Nat → Byte → Mem
  | [], i, b => [(i, b)]
  | (a, c) :: m, i, b =>
    if i < a then (i, b) :: (a, c) :: m
    else if i = a then (i, b) :: m
    else (a, c) :: Mem.write m i b

/-- The canonical form: indices strictly rising. Every entry holds a value and an unlisted cell holds none, so no entry equals
what an unlisted cell reads as. -/
abbrev Mem.wf (m : Mem) : Prop := m.Pairwise (fun x y => x.1 < y.1)

/-- The size of an array (R60). -/
def arraySize (p : Config.Params) : Config.ArrayId → Nat
  | .rxbuf => p.rxCap
  | .txbuf => p.txCap
  | .kc => p.frameCap
  | .rb => Config.reasmCap

/-- What a cell reads as: its byte, or the free value where nothing has written it since reset (R50, U9). -/
def cellValue (s : State) (arr : Config.ArrayId) (m : Mem) (i : Nat) : Byte :=
  (Mem.read? m i).getD (Config.unspecifiedCell s.epoch arr i)

/-- Read one byte of an array (R8, R65). -/
def readCell (s : State) (arr : Config.ArrayId) (m : Mem) (i : Nat) : Result Byte :=
  if i < arraySize s.cfg arr then .next (cellValue s arr m i) else .fault (.noSuchCell arr i)

/-- The bytes `A[lo .. lo + n)` (R7, R8). -/
def readSpan (s : State) (arr : Config.ArrayId) (m : Mem) (lo n : Nat) : Result (List Byte) :=
  if lo + n ≤ arraySize s.cfg arr then .next ((List.range n).map fun k => cellValue s arr m (lo + k))
  else .fault (.noSuchCell arr (arraySize s.cfg arr))

/-- Write one byte of an array (R8, R65). -/
def writeCell (s : State) (arr : Config.ArrayId) (m : Mem) (i : Nat) (b : Byte) : Result Mem :=
  if i < arraySize s.cfg arr then .next (Mem.write m i b) else .fault (.noSuchCell arr i)

/-! ### Ring indices and their visibility across a ring (R66, R72) -/

/-- What a reader gets of an index the other side owns, whose present value is `cur` and whose earlier values since the
reader's last read are `past`, oldest first (R72). -/
def seenIndex (s : State) (past : List Nat) (cur : Nat) : Nat :=
  match s.cfg.xsideView with
  | .exact => cur
  | .staleMonotone => (past ++ [cur]).getD (Config.staleChoice s.draws % (past.length + 1)) cur

/-- The earlier values that stay readable once an index moves on from `old` (R72); `exact` keeps none. -/
def remember (s : State) (past : List Nat) (old : Nat) : List Nat :=
  match s.cfg.xsideView with
  | .exact => past
  | .staleMonotone => past ++ [old]

/-- The tail a TX producer reads (TXW, RESEND, TXOCC, TXAVL). -/
def State.txTailSeen (s : State) : Nat := seenIndex s s.pastTxT s.txt

/-- The state after a TX producer has read the tail: only later values stay readable (R72). -/
def State.txTailRead (s : State) : State :=
  match s.cfg.xsideView with
  | .exact => s
  | .staleMonotone => { s with pastTxT := [], draws := s.draws + 1 }

/-- The values a TX producer may read of the tail (R72). -/
def State.txTailReadable (s : State) : List Nat :=
  match s.cfg.xsideView with
  | .exact => [s.txt]
  | .staleMonotone => s.pastTxT ++ [s.txt]

/-- The head the TX consumer reads (TXPOP). -/
def State.txHeadSeen (s : State) : Nat := seenIndex s s.pastTxH s.txh

/-- The state after TXPOP has read the head (R72). -/
def State.txHeadRead (s : State) : State :=
  match s.cfg.xsideView with
  | .exact => s
  | .staleMonotone => { s with pastTxH := [], draws := s.draws + 1 }

/-- The tail the RX producer reads (RXPUSH). -/
def State.rxTailSeen (s : State) : Nat := seenIndex s s.pastRxT s.rxt

/-- The state after RXPUSH has read the tail (R72). -/
def State.rxTailRead (s : State) : State :=
  match s.cfg.xsideView with
  | .exact => s
  | .staleMonotone => { s with pastRxT := [], draws := s.draws + 1 }

/-- The head the RX consumer reads (RXR, RXOCC, RXAVL, RECV). -/
def State.rxHeadSeen (s : State) : Nat := seenIndex s s.pastRxH s.rxh

/-- The state after the RX consumer has read the head (R72). -/
def State.rxHeadRead (s : State) : State :=
  match s.cfg.xsideView with
  | .exact => s
  | .staleMonotone => { s with pastRxH := [], draws := s.draws + 1 }

/-- `RXH` as the register of `IDXW_RX` bits it is (R5, R20). -/
def State.rxhReg (s : State) : BitVec s.cfg.idxwRx := BitVec.ofNat _ s.rxh

/-- `RXT` as the register of `IDXW_RX` bits it is (R5, R20). -/
def State.rxtReg (s : State) : BitVec s.cfg.idxwRx := BitVec.ofNat _ s.rxt

/-- `TXH` as the register of `IDXW_TX` bits it is (R5, R20). -/
def State.txhReg (s : State) : BitVec s.cfg.idxwTx := BitVec.ofNat _ s.txh

/-- `TXT` as the register of `IDXW_TX` bits it is (R5, R20). -/
def State.txtReg (s : State) : BitVec s.cfg.idxwTx := BitVec.ofNat _ s.txt

/-- `KLEN` as the register it is (R20). -/
def State.klenReg (s : State) : BitVec s.cfg.lenWidth := BitVec.ofNat _ s.klen

/-- `TXH <- v` (R22). -/
def State.setTxH (s : State) (v : Nat) : State := { s with txh := v, pastTxH := remember s s.pastTxH s.txh }

/-- `TXT <- v` (R22). -/
def State.setTxT (s : State) (v : Nat) : State := { s with txt := v, pastTxT := remember s s.pastTxT s.txt }

/-- `RXH <- v` (R21). -/
def State.setRxH (s : State) (v : Nat) : State := { s with rxh := v, pastRxH := remember s s.pastRxH s.rxh }

/-- `RXT <- v` (R21). -/
def State.setRxT (s : State) (v : Nat) : State := { s with rxt := v, pastRxT := remember s s.pastRxT s.rxt }

/-- Take the oldest byte of the RX ring: read the slot at `RXT`, advance `RXT` (R129, R171). -/
def takeRx (s : State) : Result (Byte × State) :=
  andThen (readCell s .rxbuf s.rxbuf s.rxt) fun d => .next (d, s.setRxT (nextSlot s.rxt s.cfg.rxCap))

/-! ### Results (R9, R230) -/

/-- `finish(...)` of a main-side operation: its result goes out on `m_rsp` and nothing is in flight any more. -/
def State.finish (s : State) (st : Status) (v : RspValue) : State :=
  { s with main := .idle, rsp := s.rsp ++ [⟨st, v⟩] }

/-! ### How an item enters the block (R70, R71, R102, R262) -/

/-- The wait step of a TXW in flight is enabled: the ring is full and `abort = 0` (the guard of TXW.wait, R121), or the TXW
stands at W2 and would hold (R123), for a value of the tail that may be read now (R72; notes/assumptions/16.md). -/
def TxwCtx.waits (s : State) (c : TxwCtx) : Bool :=
  !s.abort &&
    match c.stage with
    | .wait => s.txTailReadable.any fun t => ringFull s.txh t s.cfg.txCap
    | .w2 _ wn => s.txTailReadable.contains wn
    | .w3 _ _ => false
    | .w4 _ _ => false
    | .w5 _ _ => false

/-- A RESEND in the wait step of one of its TXW steps (R71, R243). -/
def ResendCtx.waiting (s : State) (c : ResendCtx) : Bool :=
  match c.tx with
  | some t => t.waits s
  | none => false

/-- A line event may begin: no line-side operation is in progress (R70 item 2), or it is a TXPOP inside a RESEND in its wait
step and `LINE_NESTING` is set (R71). -/
def mayBegin (s : State) (i : Instr) : Bool :=
  match s.line with
  | .idle => true
  | .resend c => s.cfg.lineNesting && (i == .txpop) && c.waiting s

/-- A request on `m_cmd`: refused before the first reset and while another is in flight (R70 item 1), taken without a step
while the line side is in progress (R70 item 3), else begun. -/
def issue (i : Instr) (s : State) (body : State → Result State) : Result State :=
  if s.up = false then .refused .beforeReset
  else if s.main ≠ .idle then .refused .requestInFlight
  else if s.line ≠ .idle then .next { s with main := .issued i }
  else body s

/-- A line event: it waits in the environment while it may not begin (R70 item 2, R45), else it is served
(notes/assumptions/12.md). -/
def serve (i : Instr) (s : State) (body : State → Result State) : Result State :=
  if s.up = false then .refused .beforeReset
  else if mayBegin s i then body s
  else .next { s with trace := encode i ++ s.trace }

/-- A reserved operation code (R102): no effect on the block, BAD_OPERAND on `m_rsp`, and the run is marked
(notes/assumptions/13.md). -/
def refuseReserved (i : Instr) (s : State) : Result State :=
  issue i s fun s => .next { s.finish .badOperand .nothing with marked := true }

/-! ### Reset (R42, R50, R260) -/

/-- The state after `rst`: the values of R50, whatever was in flight. The parameters, the input `abort` and what waits in the
environment are not the block's and stay; the mark is the run's and stays (notes/assumptions/14.md). -/
def State.afterRst (s : State) : State :=
  { State.reset with
    cfg := s.cfg, abort := s.abort, marked := s.marked, trace := s.trace, sched := s.sched, epoch := s.epoch + 1
    draws := s.draws }

end Sys2Proof.Machine
end

