-- ==== Sys2Proof/Machine/Operands.lean ====
section
/-! DEFINITION. The operand forms: a byte-sequence operand and its bound (spec/00_scope.md R5, D6), and a frame operand and
the fields read from it (spec/30_encoding.md R91, R96, spec/41_checksum_and_frame_codec.md R158, R159). -/

namespace Sys2Proof.Machine

/-- A payload operand within `PAYLOAD_MAX` (R151, R155). -/
def payloadFits (p : Config.Params) (bytes : List Byte) : Bool := decide (bytes.length ≤ p.payloadMax)

/-- A frame operand within `FRAME_CAP` (R158, R190). -/
def frameFits (p : Config.Params) (f : List Byte) : Bool := decide (f.length ≤ p.frameCap)

/-- Byte `i` of a sequence operand; only asked for indices within it. -/
def byteAt (f : List Byte) (i : Nat) : Byte := f.getD i 0#8

/-- `wellformed(f, flen)` (R159). -/
def wellformedFrame (f : List Byte) : Bool :=
  decide (5 ≤ f.length) && (byteAt f 0 == Config.tagShort) && decide (f.length = (byteAt f 1).toNat + 5) &&
    (byteAt f (f.length - 1) == Config.endMarker)

/-- The payload region `f[2 .. 2+L)` with `L = f[1]` (R158). -/
def framePayload (f : List Byte) : List Byte := (f.drop 2).take (byteAt f 1).toNat

/-- The embedded checksum `(f[2+L], f[3+L])`, big-endian (R158, R63). -/
def frameChecksum (f : List Byte) : Half :=
  half (byteAt f (2 + (byteAt f 1).toNat)) (byteAt f (3 + (byteAt f 1).toNat))

end Sys2Proof.Machine
end

