-- ==== Sys2Proof/Machine/Codec.lean ====
section
/-! DEFINITION. The checksum, the frame builder and the validator (spec/41_checksum_and_frame_codec.md): the meanings of CRC16,
BUILD and UNPACK, which read and write no state of the block (R150). -/

namespace Sys2Proof.Machine

/-- One bit of the recommended instance (R152). -/
def xmodemBit (c : Half) : Half := if c.msb then (c <<< 1) ^^^ 0x1021#16 else c <<< 1

/-- One byte of the recommended instance (R152): the byte into the top 8 bits, then eight bits. -/
def xmodemByte (c : Half) (b : Byte) : Half := Nat.repeat xmodemBit 8 (c ^^^ (b.setWidth 16 <<< 8))

/-- The recommended instance of CRC16, CRC-16/XMODEM (R152). -/
def xmodem (s : List Byte) : Half := s.foldl xmodemByte 0x0000#16

/-- `CRC16`, the checksum function the block is configured with (R151). -/
def crcOf (p : Config.Params) (s : List Byte) : Half :=
  match p.crc with
  | .xmodem => xmodem s
  | .other k => Config.crcOther k s

/-- Property P2 of R153: sequences of equal length that differ in exactly one position have different values. -/
def crcTellsOneByteChange (crc : List Byte → Half) : Prop :=
  ∀ (pre post : List Byte) (a b : Byte), a ≠ b → crc (pre ++ a :: post) ≠ crc (pre ++ b :: post)

/-- CRC16 (R151). -/
def execCrc16 (bytes : List Byte) (s : State) : Result State :=
  issue (.crc16 bytes) s fun s =>
    if payloadFits s.cfg bytes then .next (s.finish .ok (.checksum (crcOf s.cfg bytes)))
    else .next (s.finish .badOperand .nothing)

/-- The frame BUILD emits (R155): the short form for `L <= 255`, else the extended form. -/
def frameOf (p : Config.Params) (payload : List Byte) : List Byte :=
  if payload.length ≤ Config.shortMax then shortFrame payload (crcOf p payload) else extFrame payload (crcOf p payload)

/-- BUILD (R155 to R157). -/
def execBuild (payload : List Byte) (s : State) : Result State :=
  issue (.build payload) s fun s =>
    if payloadFits s.cfg payload then
      .next (s.finish .ok (.bytes (frameOf s.cfg payload).length (frameOf s.cfg payload)))
    else .next (s.finish .badOperand .nothing)

/-- What the validator answers: a failure, or the payload (R158). -/
inductive Verdict where
  | fail (st : Status)
  | payload (bs : List Byte)
deriving DecidableEq, Repr

/-- UNPACK's function (R158, R159): BAD_OPERAND, then MALFORMED, then CRC_MISMATCH, else the payload (R241). -/
def validate (p : Config.Params) (f : List Byte) : Verdict :=
  if frameFits p f = false then .fail .badOperand
  else if wellformedFrame f = false then .fail .malformed
  else if crcOf p (framePayload f) ≠ frameChecksum f then .fail .crcMismatch
  else .payload (framePayload f)

/-- The end of an operation with a verdict (R158, R184: a failure carries no payload). -/
def State.finishVerdict (s : State) : Verdict → State
  | .fail st => s.finish st .nothing
  | .payload bs => s.finish .ok (.bytes bs.length bs)

/-- UNPACK (R158). -/
def execUnpack (frame : List Byte) (s : State) : Result State :=
  issue (.unpack frame) s fun s => .next (s.finishVerdict (validate s.cfg frame))

end Sys2Proof.Machine
end

