-- ==== Sys2Proof/Machine/Environment.lean ====
section
/-! DEFINITION. The environment: the inputs `abort` and `rst` (spec/10_state.md R41, R42), the frames the line carries
(spec/30_encoding.md R91, R92), and the reserved operation codes (R102). -/

namespace Sys2Proof.Machine

/-- `.abort 0` (R41): the level changes, and no state of the block. -/
def execAbort0 (s : State) : Result State := .next { s with abort := false }

/-- `.abort 1` (R41). -/
def execAbort1 (s : State) : Result State := .next { s with abort := true }

/-- `.rst` (R42, R50). -/
def execRst (s : State) : Result State := .next s.afterRst

/-- Bytes on the line wait in the environment as byte-received events, in wire order (R7, R45; notes/assumptions/9.md). -/
def arrive (bytes : List Byte) (s : State) : State :=
  { s with trace := (bytes.flatMap fun d => encode (.rxpush d)) ++ s.trace }

/-- FRAME.SHORT (R91): the frame's bytes are on the line. -/
def execFrameShort (payload : List Byte) (crc : Half) (s : State) : Result State :=
  .next (arrive (shortFrame payload crc) s)

/-- FRAME.EXT (R92): the frame's bytes are on the line. -/
def execFrameExt (payload : List Byte) (crc : Half) (s : State) : Result State :=
  .next (arrive (extFrame payload crc) s)

/-- The reserved `m_op` 0x0 (R102). -/
def execReserved0 (s : State) : Result State := refuseReserved .reserved0 s

/-- The reserved `m_op` 0xC (R102). -/
def execReservedC (s : State) : Result State := refuseReserved .reservedC s

/-- The reserved `m_op` 0xD (R102). -/
def execReservedD (s : State) : Result State := refuseReserved .reservedD s

/-- The reserved `m_op` 0xE (R102). -/
def execReservedE (s : State) : Result State := refuseReserved .reservedE s

/-- The reserved `m_op` 0xF (R102). -/
def execReservedF (s : State) : Result State := refuseReserved .reservedF s

end Sys2Proof.Machine
end

