-- ==== Sys2Proof/Machine/Transport.lean ====
section
/-! DEFINITION. The async FIFO pair (spec/40_ring_buffer_transport.md): the steps of TXW, whoever issues them, and the
meanings of TXW, TXPOP, RXPUSH, RXR and the four occupancy queries. -/

namespace Sys2Proof.Machine

/-- What one TXW step leads to. -/
inductive TxwResult where
  /-- the TXW has finished -/
  | done (st : Status)
  /-- the TXW goes on with this context; `held` says that the step was a hold (R121: "a hold, not progress") -/
  | going (c : TxwCtx) (held : Bool)
deriving DecidableEq, Repr

/-- TXW.commit (R122): store the byte at the head, advance the head, enable the sender. -/
def txwCommit (b : Byte) (s : State) : Result (TxwResult × State) :=
  andThen (writeCell s .txbuf s.txbuf s.txh b) fun m =>
    .next (.done .ok, { (s.setTxH (nextSlot s.txh s.cfg.txCap)) with txbuf := m, txie := true })

/-- One step of a TXW in flight: TXW.wait, TXW.abort and TXW.commit of R121, or W2 to W5 of R123. -/
def txwStep (c : TxwCtx) (s : State) : Result (TxwResult × State) :=
  match c.stage with
  | .wait =>
    if ringFull s.txh s.txTailSeen s.cfg.txCap then
      if s.abort then .next (.done .aborted, s.txTailRead) else .next (.going c true, s.txTailRead)
    else txwCommit c.b s.txTailRead
  | .w2 wh wn =>
    if wn = s.txTailSeen then
      if s.abort then .next (.done .aborted, s.txTailRead) else .next (.going c true, s.txTailRead)
    else .next (.going ⟨c.b, .w3 wh wn⟩ false, s.txTailRead)
  | .w3 wh wn =>
    andThen (writeCell s .txbuf s.txbuf wh c.b) fun m => .next (.going ⟨c.b, .w4 wh wn⟩ false, { s with txbuf := m })
  | .w4 wh wn => .next (.going ⟨c.b, .w5 wh wn⟩ false, s.setTxH wn)
  | .w5 _ _ => .next (.done .ok, { s with txie := true })

/-- The first step of a TXW: the one step of R121 and R122, or W1 of R123. -/
def txwFirst (b : Byte) (s : State) : Result (TxwResult × State) :=
  if s.cfg.txwSplitCommit then .next (.going ⟨b, .w2 s.txh (nextSlot s.txh s.cfg.txCap)⟩ false, s)
  else txwStep ⟨b, .wait⟩ s

/-- The main side's state after a TXW step of its own: the result on `m_rsp`, or the TXW in flight (R121). -/
def afterMainTxw (r : TxwResult × State) : State :=
  match r.1 with
  | .done st => r.2.finish st .nothing
  | .going c _ => { r.2 with main := .txw c }

/-- TXW (R121 to R124). -/
def execTxw (b : Byte) (s : State) : Result State :=
  issue (.txw b) s fun s => andThen (txwFirst b s) fun r => .next (afterMainTxw r)

/-- TXPOP with the source enabled (R126, R127): one byte leaves on `l_txd` and the source is disabled once the ring is empty;
on an empty ring only the source is disabled. The head is read once. -/
def popTx (s : State) : Result State :=
  let h := s.txHeadSeen
  let s1 := s.txHeadRead
  if h = s1.txt then .next { s1 with txie := false }
  else
    andThen (readCell s1 .txbuf s1.txbuf s1.txt) fun d =>
      let s2 := s1.setTxT (nextSlot s1.txt s1.cfg.txCap)
      .next { s2 with wireOut := s2.wireOut ++ [d], txie := if s2.txt = h then false else s2.txie }

/-- TXPOP (R126). While `TXIE = 0` the event is not delivered, and nothing happens (R126, R235; notes/assumptions/7.md). -/
def execTxpop (s : State) : Result State :=
  serve .txpop s fun s => if s.txie then popTx s else .next s

/-- RXPUSH's one step (R128): the byte is stored, or dropped without a trace in the block when the ring is full. -/
def pushRx (d : Byte) (s : State) : Result State :=
  let n := nextSlot s.rxh s.cfg.rxCap
  let t := s.rxTailSeen
  let s1 := { s.rxTailRead with wireIn := s.wireIn ++ [d] }
  if n = t then .next s1
  else andThen (writeCell s1 .rxbuf s1.rxbuf s1.rxh d) fun m => .next { (s1.setRxH n) with rxbuf := m }

/-- RXPUSH (R128). -/
def execRxpush (d : Byte) (s : State) : Result State :=
  serve (.rxpush d) s (pushRx d)

/-- RXR (R129): the oldest byte, or NoData, which is no failure (R107). -/
def execRxr (s : State) : Result State :=
  issue .rxr s fun s =>
    let s1 := s.rxHeadRead
    if s.rxHeadSeen = s1.rxt then .next (s1.finish .ok .noData)
    else andThen (takeRx s1) fun r => .next (r.2.finish .ok (.byte r.1))

/-- RXOCC (R131). -/
def execRxocc (s : State) : Result State :=
  issue .rxocc s fun s =>
    .next (s.rxHeadRead.finish .ok (.count (occ s.rxHeadSeen s.rxt s.cfg.rxCap)))

/-- RXAVL (R133). -/
def execRxavl (s : State) : Result State :=
  issue .rxavl s fun s =>
    .next (s.rxHeadRead.finish .ok (.count (avail s.rxHeadSeen s.rxt s.cfg.rxCap)))

/-- TXOCC (R135). -/
def execTxocc (s : State) : Result State :=
  issue .txocc s fun s =>
    .next (s.txTailRead.finish .ok (.count (occ s.txh s.txTailSeen s.cfg.txCap)))

/-- TXAVL (R136). -/
def execTxavl (s : State) : Result State :=
  issue .txavl s fun s =>
    .next (s.txTailRead.finish .ok (.count (avail s.txh s.txTailSeen s.cfg.txCap)))

/-- The bytes buffered in the TX ring, oldest first (R23). -/
def bufferedTx (s : State) : List Byte :=
  (List.range (occ s.txh s.txt s.cfg.txCap)).map fun k => cellValue s .txbuf s.txbuf ((s.txt + k) % s.cfg.txCap)

/-- The bytes buffered in the RX ring, oldest first (R23). -/
def bufferedRx (s : State) : List Byte :=
  (List.range (occ s.rxh s.rxt s.cfg.rxCap)).map fun k => cellValue s .rxbuf s.rxbuf ((s.rxt + k) % s.cfg.rxCap)

end Sys2Proof.Machine
end

