-- ==== Sys2Proof/Machine/KeepAlive.lean ====
section
/-! DEFINITION. The keep-alive cache (spec/43_keepalive_cache.md): the meanings of STORE and TICK, which are their first
steps, and the steps of STORE and RESEND that follow. -/

namespace Sys2Proof.Machine

/-- The step of STORE that comes when `si` bytes of `f` are copied: the next byte, or S3 after the last (R191). -/
def storeStage (f : List Byte) (si : Nat) : StoreStage := if si < f.length then .s2 si else .s3

/-- STORE (R190, R191): a frame that does not fit is refused; else S1 clears validity and the copy begins. -/
def execStore (frame : List Byte) (s : State) : Result State :=
  issue (.store frame) s fun s =>
    if frameFits s.cfg frame then .next { s with kvalid := false, main := .store frame (storeStage frame 0) }
    else .next (s.finish .badOperand .nothing)

/-- One step of a STORE in flight: a byte of S2, S3, or S4 (R191). -/
def storeStep (f : List Byte) (stage : StoreStage) (s : State) : Result State :=
  match stage with
  | .s2 si =>
    andThen (writeCell s .kc s.kc si (byteAt f si)) fun m =>
      .next { s with kc := m, main := .store f (storeStage f (si + 1)) }
  | .s3 => .next { s with klen := f.length, main := .store f .s4 }
  | .s4 => .next ({ s with kvalid := true }.finish .ok .nothing)

/-- RESEND with `ri` of `rlen` bytes handled: it goes on, or has finished (R195; notes/assumptions/16.md). -/
def resendAt (rlen ri : Nat) : LineCtx := if ri < rlen then .resend ⟨rlen, ri, none⟩ else .idle

/-- TICK (R194): RESEND's step K1. `KVALID` and `KLEN` are read here, once (R195, R198). -/
def execTick (s : State) : Result State :=
  serve .tick s fun s => if s.kvalid then .next { s with line := resendAt s.klen 0 } else .next s

/-- What a step of an agent leaves, and whether it was a hold. -/
structure Turn where
  st : State
  held : Bool
deriving DecidableEq, Repr

/-- The TXW step RESEND takes now (R195, R196): the first step for byte `KC[RI]`, or the next of the TXW in flight. -/
def resendTxw (c : ResendCtx) (s : State) : Result (TxwResult × State) :=
  match c.tx with
  | none => andThen (readCell s .kc s.kc c.ri) fun b => txwFirst b s
  | some t => txwStep t s

/-- RESEND after one TXW step: the next byte whether the TXW was OK or ABORTED, or the same TXW (R195, R196). -/
def afterResendTxw (c : ResendCtx) (r : TxwResult × State) : Turn :=
  match r.1 with
  | .done _ => ⟨{ r.2 with line := resendAt c.rlen (c.ri + 1) }, false⟩
  | .going t held => ⟨{ r.2 with line := .resend { c with tx := some t } }, held⟩

/-- One step of K2 of RESEND (R195). -/
def resendStep (c : ResendCtx) (s : State) : Result Turn :=
  if c.ri < c.rlen then andThen (resendTxw c s) fun r => .next (afterResendTxw c r)
  else .next ⟨{ s with line := .idle }, false⟩

end Sys2Proof.Machine
end

