-- ==== Sys2Proof/Machine/Receive.lean ====
section
/-! DEFINITION. The frame reassembler (spec/42_frame_reassembler.md): the meaning of RECV, which is its first step V0, and
the steps that follow it. -/

namespace Sys2Proof.Machine

/-- The names of the document's receive state machine (R31). -/
inductive Phase where
  | idle | collectingLength | accumulating | complete | timedOut | overflowed
deriving DecidableEq, Repr

/-- The label of a RECV in flight (R31). -/
def RecvCtx.phase (c : RecvCtx) : Phase :=
  if c.cnt = 0#9 then .idle else if c.cnt = 1#9 then .collectingLength else .accumulating

/-- The label of a RECV that has finished, from its status (R31): R176 ends Complete with OK or CRC_MISMATCH. -/
def Status.phase : Status → Option Phase
  | .ok => some .complete
  | .crcMismatch => some .complete
  | .timedOut => some .timedOut
  | .overflowed => some .overflowed
  | .malformed => none
  | .aborted => none
  | .badOperand => none

/-- RECV.V0 (R171): each call starts from Idle. -/
def freshRecv : RecvCtx :=
  { rb := [], cnt := 0#9, exp := none, plen := 0#8, round := 0#4, stage := .poll }

/-- RECV (R170): V0, after which the operation is in flight at its first poll. -/
def execRecv (s : State) : Result State :=
  issue .recv s fun s => .next { s with main := .recv freshRecv }

/-- RECV.poll (R171): one RXOCC decides between a take and the end of the round. -/
def recvPoll (c : RecvCtx) (s : State) : State :=
  let o := occ s.rxHeadSeen s.rxt s.cfg.rxCap
  { s.rxHeadRead with main := .recv { c with stage := if 0 < o then .take else .yield } }

/-- The byte `RB[i]` of a context. -/
def RecvCtx.byteAt (s : State) (c : RecvCtx) (i : Nat) : Byte := cellValue s .rb c.rb i

/-- Dispatch on byte 0 (R172): a short frame sets `EXP = zext_9(RB[1]) + 5` (R95) and `PLEN`; anything else sets nothing. -/
def RecvCtx.dispatch (s : State) (c : RecvCtx) : RecvCtx :=
  if c.byteAt s 0 = Config.tagShort then
    { c with exp := some ((c.byteAt s 1).setWidth 9 + 5#9), plen := c.byteAt s 1 }
  else if c.byteAt s 0 = Config.tagExt then c
  else c

/-- The completion test of R174: the count is the expected one and the last byte is the EndMarker. -/
def RecvCtx.complete (s : State) (c : RecvCtx) : Bool :=
  (c.exp == some c.cnt) && (c.byteAt s (c.cnt.toNat - 1) == Config.endMarker)

/-- The buffer-full test of R174. -/
def RecvCtx.bufferFull (c : RecvCtx) : Bool := decide (Config.reasmCap ≤ c.cnt.toNat)

/-- What the end-tests decide (R174). -/
inductive EndTest where
  | overflow | finished | more
deriving DecidableEq, Repr

/-- The end-tests, in the order `REASM_FULL_WINS` gives (R174). -/
def RecvCtx.endTest (s : State) (c : RecvCtx) : EndTest :=
  if s.cfg.reasmFullWins then
    if c.bufferFull then .overflow else if c.complete s then .finished else .more
  else
    if c.complete s then .finished else if c.bufferFull then .overflow else .more

/-- Finish Complete (R176): the validator over `RB[0 .. CNT)`; a checksum mismatch is reported, and anything else the rule
ends OK with `PLEN` and `RB[2 .. 2+PLEN)` (notes/assumptions/8.md). -/
def recvComplete (c : RecvCtx) (s : State) : Result State :=
  andThen (readSpan s .rb c.rb 0 c.cnt.toNat) fun f =>
    if validate s.cfg f = .fail .crcMismatch then .next (s.finish .crcMismatch .nothing)
    else andThen (readSpan s .rb c.rb 2 c.plen.toNat) fun p => .next (s.finish .ok (.bytes c.plen.toNat p))

/-- The part of RECV.take after the byte is stored and counted: dispatch at the second byte, then the end-tests (R171). -/
def recvTaken (c : RecvCtx) (s : State) : Result State :=
  let c1 := if c.cnt = 2#9 then c.dispatch s else c
  match c1.endTest s with
  | .overflow => .next (s.finish .overflowed .nothing)
  | .finished => recvComplete c1 s
  | .more => .next { s with main := .recv { c1 with stage := .poll } }

/-- RECV.take (R171): one RXR, which never is NoData here, its byte stored at `RB[CNT]`. -/
def recvTake (c : RecvCtx) (s : State) : Result State :=
  andThen (takeRx s.rxHeadRead) fun r =>
    andThen (writeCell r.2 .rb c.rb c.cnt.toNat r.1) fun m => recvTaken { c with rb := m, cnt := c.cnt + 1#9 } r.2

/-- RECV.yield (R171, R178): the round is over, and the tenth one is the last. -/
def recvYield (c : RecvCtx) (s : State) : State :=
  if (c.round + 1#4).toNat = Config.retryRounds then s.finish .timedOut .nothing
  else { s with main := .recv { c with round := c.round + 1#4, stage := .poll } }

/-- One step of a RECV in flight (R171). -/
def recvStep (c : RecvCtx) (s : State) : Result State :=
  match c.stage with
  | .poll => .next (recvPoll c s)
  | .take => recvTake c s
  | .yield => .next (recvYield c s)

end Sys2Proof.Machine
end

