-- ==== Sys2Proof/Machine/Dispatch.lean ====
section
/-! DEFINITION. exec: one item, one meaning. -/

namespace Sys2Proof.Machine

def exec (i : Instr) (s : State) : Host.Outcome State Fault Refusal :=
  match i with
  | .txw b => Sys2Proof.Machine.execTxw b s
  | .rxr => Sys2Proof.Machine.execRxr s
  | .rxocc => Sys2Proof.Machine.execRxocc s
  | .rxavl => Sys2Proof.Machine.execRxavl s
  | .txocc => Sys2Proof.Machine.execTxocc s
  | .txavl => Sys2Proof.Machine.execTxavl s
  | .crc16 bytes => Sys2Proof.Machine.execCrc16 bytes s
  | .build payload => Sys2Proof.Machine.execBuild payload s
  | .unpack frame => Sys2Proof.Machine.execUnpack frame s
  | .store frame => Sys2Proof.Machine.execStore frame s
  | .recv => Sys2Proof.Machine.execRecv s
  | .rxpush d => Sys2Proof.Machine.execRxpush d s
  | .txpop => Sys2Proof.Machine.execTxpop s
  | .tick => Sys2Proof.Machine.execTick s
  | .abort0 => Sys2Proof.Machine.execAbort0 s
  | .abort1 => Sys2Proof.Machine.execAbort1 s
  | .rst => Sys2Proof.Machine.execRst s
  | .frameShort payload crc => Sys2Proof.Machine.execFrameShort payload crc s
  | .frameExt payload crc => Sys2Proof.Machine.execFrameExt payload crc s
  | .reserved0 => Sys2Proof.Machine.execReserved0 s
  | .reservedC => Sys2Proof.Machine.execReservedC s
  | .reservedD => Sys2Proof.Machine.execReservedD s
  | .reservedE => Sys2Proof.Machine.execReservedE s
  | .reservedF => Sys2Proof.Machine.execReservedF s

end Sys2Proof.Machine
end

