-- ==== Sys2Proof/Machine/Scheduler.lean ====
section
/-! DEFINITION. Which agent steps next (spec/20_memory.md R70, R71) and how a trace is served (spec/30_encoding.md R103). A
step is one atomic step of one agent, or the serving of one item of the trace. -/

namespace Sys2Proof.Machine

/-- The refusal of bytes that are no item (R102, R103, D8.3). -/
def refuseBytes : DecodeError → Refusal
  | .notATraceItem c => .notATraceItem c
  | .truncatedItem c => .truncatedItem c

/-- An item of the trace that may be served while an operation is in progress: an action of the environment, or a line event
that may begin (R70 items 2 and 3, R71, R103). -/
def servable (s : State) (i : Instr) : Bool :=
  match i.port with
  | .env => true
  | .line => mayBegin s i
  | .main => false
  | .wire => false

/-- Serve the next servable item of the trace, or else go on with `otherwise` (R103). -/
def serveWaiting (s : State) (otherwise : Result State) : Result State :=
  match findItem (servable s) s.trace.length s.trace with
  | .item i rest => exec i { s with trace := rest }
  | .bad e => .refused (refuseBytes e)
  | .none => otherwise

/-- A step of an agent that always makes progress. -/
def progress (o : Result State) : Result Turn := andThen o fun t => .next ⟨t, false⟩

/-- One step of the agent whose turn it is: the line side until its operation has finished, then the main side (R70 items 2
and 3). With nothing in progress there is no step to take. -/
def agentStep (s : State) : Result Turn :=
  match s.line with
  | .resend c => resendStep c s
  | .idle =>
    match s.main with
    | .idle => .next ⟨s, true⟩
    | .issued i => progress (exec i { s with main := .idle })
    | .txw c => andThen (txwStep c s) fun r =>
        .next ⟨afterMainTxw r, match r.1 with | .done _ => false | .going _ held => held⟩
    | .store f stage => progress (storeStep f stage s)
    | .recv c => progress (recvStep c s)

/-- The turn of the agent: its step, and where that is a hold, the next item that may be served while it holds (R103). -/
def agentTurn (s : State) : Result State :=
  andThen (agentStep s) fun t => if t.held then serveWaiting t.st (.next t.st) else .next t.st

/-- A step while an operation is in progress: the environment's choice for this boundary (R46, R70 items 3 and 4) is to have
a waiting item served now, or to let the agent go on. -/
def inProgress (s : State) : Result State :=
  match s.sched with
  | [] => agentTurn s
  | false :: rest => agentTurn { s with sched := rest }
  | true :: rest => serveWaiting { s with sched := rest } (agentTurn { s with sched := rest })

/-- A step with nothing in progress: the next item of the trace is served; at its end the block waits (R260). -/
def fetchNext (s : State) : Result State :=
  match decodeItem s.trace with
  | .none => .next s
  | .bad e => .refused (refuseBytes e)
  | .item i rest => exec i { s with trace := rest }

/-- Nothing is in progress on either side. -/
def State.quiet (s : State) : Bool := (s.main == .idle) && (s.line == .idle)

/-- One step of the machine. Before the first reset nothing counts as in progress (R262). -/
def turn (s : State) : Result State :=
  if s.quiet || !s.up then fetchNext s else inProgress s

end Sys2Proof.Machine
end

