-- ==== Sys2Proof/Machine/Step.lean ====
section
/-! DEFINITION. The step of the machine and the place it takes its next item from. -/

namespace Sys2Proof.Machine

/-- One step (R9, R70): next state, fault or refusal. -/
def step (s : State) : Host.Outcome State Fault Refusal := turn s

/-- The state with one item as its whole trace and nothing in progress, so that the next step serves it
(notes/assumptions/10.md). -/
def State.withFetchWord (s : State) (nbits w : Nat) : State :=
  { s with trace := tableWordBytes nbits w, main := .idle, line := .idle }

end Sys2Proof.Machine
end

