-- ==== Sys2Proof/Machine/HostSeq.lean ====
section
/-! DEFINITION. The host's use of the block (spec/44_host_sequences.md): the pseudo-operations of spec/30_encoding.md R111 as
sequences of items, and what the host makes of a result. These bind the host, not the block. -/

namespace Sys2Proof.Machine

/-- SEND (R210): BUILD, and if it gives a frame, STORE it and write its bytes in order. -/
def sendItems (p : Config.Params) (payload : List Byte) : List Instr :=
  if payloadFits p payload then
    [.build payload, .store (frameOf p payload)] ++ (frameOf p payload).map .txw
  else [.build payload]

/-- REQUEST (R212): SEND, then RECV. DESIGN CHOICE: where BUILD refuses the payload, R210's "stop" does not say whether
REQUEST still issues RECV; here it does (notes/assumptions/22.md). -/
def requestItems (p : Config.Params) (payload : List Byte) : List Instr := sendItems p payload ++ [.recv]

/-- The payload of a command builder (R217): the identifier and a signed 32-bit integer, big-endian (R63), in two's
complement (the spec's G4). -/
def commandPayload (id : Byte) (v : BitVec 32) : List Byte :=
  [id, v.extractLsb' 24 8, v.extractLsb' 16 8, v.extractLsb' 8 8, v.extractLsb' 0 8]

/-- SETCMD (R217): SEND of a command payload, and no RECV. -/
def setcmdItems (p : Config.Params) (id : Byte) (v : BitVec 32) : List Instr := sendItems p (commandPayload id v)

/-- The GET_VALUES request (R219). -/
def getValuesItems (p : Config.Params) : List Instr := requestItems p [p.cmdGetValues]

/-- The frame a command builder sends (R217). -/
def commandFrame (p : Config.Params) (id : Byte) (v : BitVec 32) : List Byte := frameOf p (commandPayload id v)

/-- What the host makes of a RECV result (R213, R215). -/
inductive HostVerdict where
  /-- a GET_VALUES payload, long enough to be decoded; the decode itself is out of scope (R4, U18) -/
  | decode (payload : List Byte)
  /-- Failure with the block's status: no usable response -/
  | noUsableResponse (st : Status)
  /-- Failure (d): shorter than `MIN_GET_VALUES` -/
  | shortResponse
  /-- Failure (e): no handler for the identifier -/
  | unknownCommand
  /-- an OK response of length 0, about which nothing is stated (R215, U17) -/
  | unstated
deriving DecidableEq, Repr

/-- The host's dispatch on the first payload byte (R215). -/
def hostVerdict (p : Config.Params) (r : Response) : HostVerdict :=
  if r.usable then
    match r.value with
    | .bytes _ (id :: rest) =>
      if id = p.cmdGetValues then
        if Config.minGetValues ≤ (id :: rest).length then .decode (id :: rest) else .shortResponse
      else .unknownCommand
    | _ => .unstated
  else .noUsableResponse r.status

/-- The single boolean the Driver boundary shows (R213). DESIGN CHOICE: R215 does not state what the host does with an OK
response of length 0; the verdict `unstated` shows as false here, like a Failure (notes/assumptions/23.md). -/
def HostVerdict.visible : HostVerdict → Bool
  | .decode _ => true
  | .noUsableResponse _ => false
  | .shortResponse => false
  | .unknownCommand => false
  | .unstated => false

end Sys2Proof.Machine
end

