-- ==== Sys2Proof/Safety.lean ====
section
/-! DEFINITION. What counts as a sound state and a safe run, in the terms the statements use: the ring and cache invariants of
spec/10_state.md R23 and R25, the ranges of R20 and R26 to R29, and what an agent in progress may be. -/

namespace Sys2Proof.Machine

/-- Every cell of an array lies inside it (R60, R62). -/
def Mem.below (m : Mem) (n : Nat) : Prop := ∀ c ∈ m, c.1 < n

/-- The first `n` cells of an array hold the first `n` bytes of a sequence. -/
def Mem.holds (m : Mem) (n : Nat) (f : List Byte) : Prop := ∀ k, k < n → Mem.read? m k = some (byteAt f k)

/-- The four ring indices are in `[0, N]` (R23). -/
structure IndicesInRange (s : State) : Prop where
  rxh : s.rxh < s.cfg.rxCap
  rxt : s.rxt < s.cfg.rxCap
  txh : s.txh < s.cfg.txCap
  txt : s.txt < s.cfg.txCap

/-- Every index value a side may still read is in range (R72). -/
structure PastsInRange (s : State) : Prop where
  rxT : ∀ v ∈ s.pastRxT, v < s.cfg.rxCap
  rxH : ∀ v ∈ s.pastRxH, v < s.cfg.rxCap
  txT : ∀ v ∈ s.pastTxT, v < s.cfg.txCap
  txH : ∀ v ∈ s.pastTxH, v < s.cfg.txCap

/-- The arrays are in canonical form and within their sizes (R60, R62). -/
structure ArraysSound (s : State) : Prop where
  rxWf : Mem.wf s.rxbuf
  txWf : Mem.wf s.txbuf
  kcWf : Mem.wf s.kc
  rxBelow : Mem.below s.rxbuf s.cfg.rxCap
  txBelow : Mem.below s.txbuf s.cfg.txCap
  kcBelow : Mem.below s.kc s.cfg.frameCap

/-- The cache (R25): its length fits, and while it is valid every byte of the frame is there. -/
structure CacheSound (s : State) : Prop where
  klen : s.klen ≤ s.cfg.frameCap
  written : s.kvalid = true → ∀ k, k < s.klen → (Mem.read? s.kc k).isSome

/-- A TXW in flight (R28): the stage belongs to the configured commit, and `WN` is the successor of a `WH` in range. -/
def TxwSound (s : State) (c : TxwCtx) : Prop :=
  match c.stage with
  | .wait => s.cfg.txwSplitCommit = false
  | .w2 wh wn => s.cfg.txwSplitCommit = true ∧ wh < s.cfg.txCap ∧ wn = nextSlot wh s.cfg.txCap
  | .w3 wh wn => s.cfg.txwSplitCommit = true ∧ wh < s.cfg.txCap ∧ wn = nextSlot wh s.cfg.txCap
  | .w4 wh wn => s.cfg.txwSplitCommit = true ∧ wh < s.cfg.txCap ∧ wn = nextSlot wh s.cfg.txCap
  | .w5 wh wn => s.cfg.txwSplitCommit = true ∧ wh < s.cfg.txCap ∧ wn = nextSlot wh s.cfg.txCap

/-- A STORE in flight (R27, R191): its frame fits, the cache is not valid, and the bytes before the cursor are copied. -/
def StoreSound (s : State) (f : List Byte) (stage : StoreStage) : Prop :=
  f.length ≤ s.cfg.frameCap ∧ s.kvalid = false ∧
    match stage with
    | .s2 si => si < f.length ∧ Mem.holds s.kc si f
    | .s3 => Mem.holds s.kc f.length f
    | .s4 => Mem.holds s.kc f.length f ∧ s.klen = f.length

/-- A RECV in flight (R26, R172, R185): the counts are within bounds, the bytes counted are there, and `EXP` is set exactly as
the dispatch of R172 sets it. -/
structure RecvSound (s : State) (c : RecvCtx) : Prop where
  rbWf : Mem.wf c.rb
  rbBelow : Mem.below c.rb Config.reasmCap
  cnt : c.cnt.toNat ≤ 255
  round : c.round.toNat ≤ 9
  held : ∀ k, k < c.cnt.toNat → (Mem.read? c.rb k).isSome
  expEarly : c.cnt.toNat < 2 → c.exp = none
  expShort : ∀ e, c.exp = some e →
    2 ≤ c.cnt.toNat ∧ Mem.read? c.rb 0 = some Config.tagShort ∧ Mem.read? c.rb 1 = some c.plen ∧
      e.toNat = c.plen.toNat + 5
  nonempty : s.cfg.xsideView = .exact → c.stage = .take → s.rxh ≠ s.rxt

/-- The main-side operation in flight is one the rules allow. -/
def MainSound (s : State) : Prop :=
  match s.main with
  | .idle => True
  | .issued i => i.port = .main
  | .txw c => TxwSound s c
  | .store f stage => StoreSound s f stage
  | .recv c => RecvSound s c

/-- The RESEND in progress (R29, R195, R77): it began with the cache valid and nothing has written the cache since. -/
def LineSound (s : State) : Prop :=
  match s.line with
  | .idle => True
  | .resend c => c.ri < c.rlen ∧ c.rlen = s.klen ∧ s.kvalid = true ∧ ∀ t, c.tx = some t → TxwSound s t

/-- The invariant of the block: the parameters are in the ranges of R5 and everything they bound is within bounds. -/
structure BlockInv (s : State) : Prop where
  params : s.cfg.wf = true
  indices : IndicesInRange s
  pasts : PastsInRange s
  arrays : ArraysSound s
  cache : CacheSound s
  main : MainSound s
  line : LineSound s

/-- The streaming contract (R138), with the one-step commit and the exact view: the sender is enabled exactly while the TX
ring holds a byte, and every byte it holds has been written. -/
structure Streaming (s : State) : Prop where
  enabled : s.txie = true ↔ s.txh ≠ s.txt
  written : ∀ k, k < occ s.txh s.txt s.cfg.txCap → (Mem.read? s.txbuf ((s.txt + k) % s.cfg.txCap)).isSome

/-- The defaults of R122 and R72 that the ring properties assume: the one-step commit and the exact view. -/
abbrev Plain (s : State) : Prop := s.cfg.txwSplitCommit = false ∧ s.cfg.xsideView = .exact

/-- The main side may begin an operation: the block has been reset and nothing is in progress. -/
abbrev Ready (s : State) : Prop := s.up = true ∧ s.main = .idle ∧ s.line = .idle

/-- The line side may begin an event: the block has been reset and no line-side operation is in progress. -/
abbrev LineReady (s : State) : Prop := s.up = true ∧ s.line = .idle

/-- The cached frame, `KC[0 .. KLEN)` (R24). -/
def cachedFrame (s : State) : List Byte := (List.range s.klen).map fun k => cellValue s .kc s.kc k

/-- The machine's run of `n` steps from a state. -/
def runs (n : Nat) (s : State) : Result State := Sys2Proof.core.run n s

/-- A step that stops with neither a next state nor a refusal. -/
def Faults (o : Result State) : Prop := ∃ e, o = .fault e

/-- What no event of the environment changes: the bytes waiting hold no item that may be served now (R103, R197). -/
abbrev nothingServable (s : State) : Prop := findItem (servable s) s.trace.length s.trace = .none

end Sys2Proof.Machine
end

