-- ==== Sys2Proof/Certificates/Slice0/Obligations.lean ====
section
/-! DEFINITION. The statements for the provers. Each docstring names the rule of spec/ it formalises. -/

open Sys2Proof Sys2Proof.Machine

/-! ### The trace and the wire formats -/

/-- With nothing in progress, a step serves the item the trace begins with, and at the trace's end it changes nothing
(R103, R260; notes/assumptions/10.md). -/
def Obligations.StepServesNextItem : Prop :=
  (∀ (s : State) (i : Instr) (rest : List Byte), s.main = .idle → s.line = .idle →
    decodeItem s.trace = .item i rest → step s = exec i { s with trace := rest }) ∧
  (∀ s : State, s.main = .idle → s.line = .idle → s.trace = [] → step s = .next s)

/-- With an operation in progress, a step is the step of the agent whose turn it is (R70 items 2 to 4); where that step holds,
the next item of the trace that may be served is served (R103), and where the environment chooses to interrupt at this
boundary, such an item is served in its place (R46). That the choice stands in `sched` is the model's (notes/assumptions/11.md,
notes/assumptions/12.md). -/
def Obligations.StepTakesAgentTurn : Prop :=
  ∀ (s : State) (u : Turn), s.up = true → (s.main ≠ .idle ∨ s.line ≠ .idle) →
    agentStep { s with sched := s.sched.tail } = .next u →
    (s.sched.head? ≠ some true →
      (u.held = false → step s = .next u.st) ∧
      (u.held = true → nothingServable u.st → step s = .next u.st) ∧
      (∀ (i : Instr) (rest : List Byte), u.held = true →
        findItem (servable u.st) u.st.trace.length u.st.trace = .item i rest →
          step s = exec i { u.st with trace := rest })) ∧
    (s.sched.head? = some true → ∀ (i : Instr) (rest : List Byte),
      findItem (servable { s with sched := s.sched.tail }) s.trace.length s.trace = .item i rest →
        step s = exec i { s with sched := s.sched.tail, trace := rest })

/-- Item codes of R100, R101 and R103, one or more of every kind, as written in those tables. -/
def Obligations.TraceCodesDecode : Prop :=
  decodeItem [0x01#8, 0x41#8] = .item (.txw 0x41#8) [] ∧
  decodeItem [0x02#8, 0x03#8] = .item .rxr [0x03#8] ∧
  decodeItem [0x06#8] = .item .txavl [] ∧
  decodeItem [0x07#8, 0x00#8, 0x03#8, 0x31#8, 0x32#8, 0x33#8, 0x05#8] =
    .item (.crc16 [0x31#8, 0x32#8, 0x33#8]) [0x05#8] ∧
  decodeItem [0x0A#8, 0x00#8, 0x01#8, 0xAA#8] = .item (.store [0xAA#8]) [] ∧
  decodeItem [0x0B#8] = .item .recv [] ∧
  decodeItem [0x10#8, 0x02#8] = .item (.rxpush 0x02#8) [] ∧
  decodeItem [0x12#8] = .item .tick [] ∧
  decodeItem [0x21#8] = .item .abort1 [] ∧
  decodeItem [0x22#8] = .item .rst [] ∧
  decodeItem [0x0F#8] = .item .reservedF []

/-- Every well-formed item but the wire frames is read back from its trace encoding, whatever follows it (R103). -/
def Obligations.TraceEncodingRoundTrip : Prop :=
  ∀ (i : Instr) (rest : List Byte), i.wf = true → i.port ≠ .wire → decodeItem (encode i ++ rest) = .item i rest

/-- Every well-formed wire frame is read back from its bytes (R91, R92, R94). -/
def Obligations.WireFrameRoundTrip : Prop :=
  ∀ i : Instr, i.wf = true → i.port = .wire → decodeFrame (encode i) = some i

/-- R91: the bytes of the short frame BUILD emits for a payload of `L <= 255` bytes. -/
def Obligations.ShortFrameLayout : Prop :=
  ∀ (p : Config.Params) (payload : List Byte), payload.length ≤ 255 →
    (frameOf p payload).length = payload.length + 5 ∧
    (frameOf p payload)[0]? = some 0x02#8 ∧
    (frameOf p payload)[1]? = some (BitVec.ofNat 8 payload.length) ∧
    (∀ k, k < payload.length → (frameOf p payload)[2 + k]? = payload[k]?) ∧
    (frameOf p payload)[payload.length + 2]? = some ((crcOf p payload).extractLsb' 8 8) ∧
    (frameOf p payload)[payload.length + 3]? = some ((crcOf p payload).extractLsb' 0 8) ∧
    (frameOf p payload)[payload.length + 4]? = some 0x03#8

/-- R92: the bytes of the extended frame BUILD emits for a payload of `256 <= L <= 65535` bytes. -/
def Obligations.ExtendedFrameLayout : Prop :=
  ∀ (p : Config.Params) (payload : List Byte), 256 ≤ payload.length → payload.length ≤ 65535 →
    (frameOf p payload).length = payload.length + 6 ∧
    (frameOf p payload)[0]? = some 0x03#8 ∧
    (frameOf p payload)[1]? = some ((BitVec.ofNat 16 payload.length).extractLsb' 8 8) ∧
    (frameOf p payload)[2]? = some ((BitVec.ofNat 16 payload.length).extractLsb' 0 8) ∧
    (∀ k, k < payload.length → (frameOf p payload)[3 + k]? = payload[k]?) ∧
    (frameOf p payload)[payload.length + 3]? = some ((crcOf p payload).extractLsb' 8 8) ∧
    (frameOf p payload)[payload.length + 4]? = some ((crcOf p payload).extractLsb' 0 8) ∧
    (frameOf p payload)[payload.length + 5]? = some 0x03#8

/-- R102: a reserved `m_op` returns BAD_OPERAND and changes nothing of the block (but for the mark on the run, which the
statement leaves open); the trace byte of the reserved `l_ev` is refused, with nothing returned. -/
def Obligations.ReservedCodesRefused : Prop :=
  (∀ (s : State) (i : Instr), Ready s → i ∈ [Instr.reserved0, .reservedC, .reservedD, .reservedE, .reservedF] →
    ∃ m : Bool, exec i s = .next { s with rsp := s.rsp ++ [⟨.badOperand, .nothing⟩], marked := m }) ∧
  (∀ (s : State) (rest : List Byte), Ready s → s.trace = 0x13#8 :: rest → step s = .refused (.notATraceItem 0x13#8))

/-- A wire frame is no operation: putting it on the line makes its bytes wait as byte-received events, in wire order, and
changes no other state (R7, R45, R91, R92; the model's choice of notes/assumptions/9.md). -/
def Obligations.FramesWaitOnTheLine : Prop :=
  ∀ (s : State) (payload : List Byte) (crc : Half),
    exec (.frameShort payload crc) s =
      .next { s with trace := ((shortFrame payload crc).flatMap fun d => [0x10#8, d]) ++ s.trace } ∧
    exec (.frameExt payload crc) s =
      .next { s with trace := ((extFrame payload crc).flatMap fun d => [0x10#8, d]) ++ s.trace }

/-! ### The TX ring -/

/-- R122, TXW.commit: the byte goes to the head's slot, the head advances, `TXIE` is set, the result is OK; every other cell
of `TXBUF` is unchanged, and nothing else of the block changes. -/
def Obligations.TxwCommitStoresByte : Prop :=
  ∀ (s : State) (b : Byte), Ready s → s.cfg.txwSplitCommit = false → s.txh < s.cfg.txCap →
    ringFull s.txh s.txTailSeen s.cfg.txCap = false →
    (∃ t, exec (.txw b) s = .next t ∧
      t = { s.txTailRead with
            txbuf := Mem.write s.txbuf s.txh b, txh := (s.txh + 1) % s.cfg.txCap, txie := true
            pastTxH := remember s s.pastTxH s.txh, rsp := s.rsp ++ [⟨.ok, .nothing⟩] } ∧
      Mem.read? t.txbuf s.txh = some b ∧ ∀ a, a ≠ s.txh → Mem.read? t.txbuf a = Mem.read? s.txbuf a)

/-- R121: on a full ring TXW holds while `abort = 0`, changing nothing but that it is in flight, and finishes ABORTED without
storing the byte while `abort = 1`. -/
def Obligations.TxwFullHoldsOrAborts : Prop :=
  ∀ (s : State) (b : Byte), Ready s → s.cfg.txwSplitCommit = false →
    ringFull s.txh s.txTailSeen s.cfg.txCap = true →
    (s.abort = false → exec (.txw b) s = .next { s.txTailRead with main := .txw ⟨b, .wait⟩ }) ∧
    (s.abort = true → exec (.txw b) s = .next { s.txTailRead with rsp := s.rsp ++ [⟨.aborted, .nothing⟩] })

/-- R121, R124: a held TXW of the main side is lifted by a TXPOP: the pop leaves room, and the TXW's next step commits its
byte and finishes OK. -/
def Obligations.TxpopLiftsHeldTxw : Prop :=
  ∀ (s : State) (b : Byte), BlockInv s → Plain s → s.up = true → s.line = .idle → s.main = .txw ⟨b, .wait⟩ →
    ringFull s.txh s.txt s.cfg.txCap = true → s.txie = true →
    ∃ t u, exec .txpop s = .next t ∧ agentStep t = .next u ∧ u.held = false ∧ u.st.main = .idle ∧
      u.st.rsp = s.rsp ++ [⟨.ok, .nothing⟩] ∧ u.st.txie = true ∧
      u.st.wireOut ++ bufferedTx u.st = s.wireOut ++ bufferedTx s ++ [b]

/-- R123: the five steps of TXW with the split commit. -/
def Obligations.TxwSplitCommitSteps : Prop :=
  (∀ (s : State) (b : Byte), Ready s → s.cfg.txwSplitCommit = true →
    exec (.txw b) s = .next { s with main := .txw ⟨b, .w2 s.txh ((s.txh + 1) % s.cfg.txCap)⟩ }) ∧
  (∀ (s : State) (b : Byte) (wh wn : Nat), s.line = .idle → s.main = .txw ⟨b, .w2 wh wn⟩ →
    agentStep s =
      if wn = s.txTailSeen then
        if s.abort = true then .next ⟨s.txTailRead.finish .aborted .nothing, false⟩ else .next ⟨s.txTailRead, true⟩
      else .next ⟨{ s.txTailRead with main := .txw ⟨b, .w3 wh wn⟩ }, false⟩) ∧
  (∀ (s : State) (b : Byte) (wh wn : Nat), s.line = .idle → s.main = .txw ⟨b, .w3 wh wn⟩ → wh < s.cfg.txCap →
    agentStep s = .next ⟨{ s with txbuf := Mem.write s.txbuf wh b, main := .txw ⟨b, .w4 wh wn⟩ }, false⟩) ∧
  (∀ (s : State) (b : Byte) (wh wn : Nat), s.line = .idle → s.main = .txw ⟨b, .w4 wh wn⟩ →
    agentStep s =
      .next ⟨{ s with txh := wn, pastTxH := remember s s.pastTxH s.txh, main := .txw ⟨b, .w5 wh wn⟩ }, false⟩) ∧
  (∀ (s : State) (b : Byte) (wh wn : Nat), s.line = .idle → s.main = .txw ⟨b, .w5 wh wn⟩ →
    agentStep s = .next ⟨{ s with txie := true }.finish .ok .nothing, false⟩)

/-- R126, R127: TXPOP emits the byte at the tail and advances the tail, and disables its source once the ring is empty, or if
it was empty already; while `TXIE = 0` the event is not delivered. That a TXPOP item served then is used up and changes nothing
is the model's choice (notes/assumptions/7.md). -/
def Obligations.TxpopEmitsOldestByte : Prop :=
  ∀ s : State, LineReady s →
    (s.txie = true → s.txHeadSeen ≠ s.txt → s.txt < s.cfg.txCap →
      exec .txpop s = .next
        { s.txHeadRead with
          txt := (s.txt + 1) % s.cfg.txCap, pastTxT := remember s s.pastTxT s.txt
          wireOut := s.wireOut ++ [cellValue s .txbuf s.txbuf s.txt]
          txie := if (s.txt + 1) % s.cfg.txCap = s.txHeadSeen then false else true }) ∧
    (s.txie = true → s.txHeadSeen = s.txt → exec .txpop s = .next { s.txHeadRead with txie := false }) ∧
    (s.txie = false → exec .txpop s = .next s)

/-- R134 over one step: with the one-step commit and the exact view, the bytes emitted followed by the bytes buffered grow at
their end by at most one byte, and by nothing else, in every step that is no reset. -/
def Obligations.TxBytesStayInOrder : Prop :=
  ∀ s t : State, BlockInv s → Plain s → step s = .next t → t.epoch = s.epoch →
    ∃ new : List Byte, new.length ≤ 1 ∧ t.wireOut ++ bufferedTx t = s.wireOut ++ bufferedTx s ++ new ∧
      (new = [] ↔ t.txh = s.txh)

/-- R138: with the one-step commit and the exact view, after every step `TXIE = 1` exactly when the TX ring is not empty, and
every buffered cell has been written. -/
def Obligations.StepKeepsStreaming : Prop :=
  ∀ s t : State, BlockInv s → Plain s → Streaming s → step s = .next t → Streaming t

/-! ### The RX ring -/

/-- R128: RXPUSH stores the byte and advances the head, or on a full ring drops it; either way the byte has been delivered on
`l_rx`, and nothing else changes. -/
def Obligations.RxpushStoresOrDrops : Prop :=
  ∀ (s : State) (d : Byte), LineReady s → s.rxh < s.cfg.rxCap →
    ((s.rxh + 1) % s.cfg.rxCap = s.rxTailSeen →
      exec (.rxpush d) s = .next { s.rxTailRead with wireIn := s.wireIn ++ [d] }) ∧
    ((s.rxh + 1) % s.cfg.rxCap ≠ s.rxTailSeen →
      ∃ t, exec (.rxpush d) s = .next t ∧
        t = { s.rxTailRead with
              wireIn := s.wireIn ++ [d], rxbuf := Mem.write s.rxbuf s.rxh d, rxh := (s.rxh + 1) % s.cfg.rxCap
              pastRxH := remember s s.pastRxH s.rxh } ∧
        Mem.read? t.rxbuf s.rxh = some d ∧ ∀ a, a ≠ s.rxh → Mem.read? t.rxbuf a = Mem.read? s.rxbuf a)

/-- R129: RXR answers NoData on an empty ring and changes nothing of it; else it answers the byte at the tail and advances
the tail. The status is OK both times. -/
def Obligations.RxrReturnsOldestByte : Prop :=
  ∀ s : State, Ready s →
    (s.rxHeadSeen = s.rxt → exec .rxr s = .next { s.rxHeadRead with rsp := s.rsp ++ [⟨.ok, .noData⟩] }) ∧
    (s.rxHeadSeen ≠ s.rxt → s.rxt < s.cfg.rxCap →
      exec .rxr s = .next
        { s.rxHeadRead with
          rxt := (s.rxt + 1) % s.cfg.rxCap, pastRxT := remember s s.pastRxT s.rxt
          rsp := s.rsp ++ [⟨.ok, .byte (cellValue s .rxbuf s.rxbuf s.rxt)⟩] })

/-- R131, R133, R135, R136: the four queries answer the used and the free slots of their ring and change no state of the
block. -/
def Obligations.OccupancyQueriesAnswer : Prop :=
  ∀ s : State, Ready s →
    exec .rxocc s = .next
      { s.rxHeadRead with
        rsp := s.rsp ++ [⟨.ok, .count (((s.rxHeadSeen : Int) - (s.rxt : Int)) % (s.cfg.rxCap : Int)).toNat⟩] } ∧
    exec .rxavl s = .next
      { s.rxHeadRead with
        rsp := s.rsp ++
          [⟨.ok, .count (s.cfg.rxN - (((s.rxHeadSeen : Int) - (s.rxt : Int)) % (s.cfg.rxCap : Int)).toNat)⟩] } ∧
    exec .txocc s = .next
      { s.txTailRead with
        rsp := s.rsp ++ [⟨.ok, .count (((s.txh : Int) - (s.txTailSeen : Int)) % (s.cfg.txCap : Int)).toNat⟩] } ∧
    exec .txavl s = .next
      { s.txTailRead with
        rsp := s.rsp ++
          [⟨.ok, .count (s.cfg.txN - (((s.txh : Int) - (s.txTailSeen : Int)) % (s.cfg.txCap : Int)).toNat)⟩] }

/-- R137 over one step: with the exact view, in every step that is no reset the RX ring gives up at most its oldest byte and
takes in at most the byte delivered, which is dropped exactly when the ring held `RX_N` bytes. -/
def Obligations.RxBytesStayInOrder : Prop :=
  ∀ s t : State, BlockInv s → s.cfg.xsideView = .exact → step s = .next t → t.epoch = s.epoch →
    ∃ taken pushed : List Byte, taken.length ≤ 1 ∧ pushed.length ≤ 1 ∧ t.wireIn = s.wireIn ++ pushed ∧
      taken ++ bufferedRx t = bufferedRx s ++ (if occ s.rxh s.rxt s.cfg.rxCap = s.cfg.rxN then [] else pushed)

/-- R72: under `exact` a cross-side read gives the present value; under `staleMonotone` it gives the present value or one held
since the last read, after which no older one can be read (notes/assumptions/5.md). -/
def Obligations.CrossSideReads : Prop :=
  ∀ s : State,
    (s.cfg.xsideView = .exact → s.txTailSeen = s.txt ∧ s.txHeadSeen = s.txh ∧ s.rxTailSeen = s.rxt ∧ s.rxHeadSeen = s.rxh) ∧
    (s.txTailSeen ∈ s.pastTxT ++ [s.txt] ∧ s.txHeadSeen ∈ s.pastTxH ++ [s.txh] ∧
      s.rxTailSeen ∈ s.pastRxT ++ [s.rxt] ∧ s.rxHeadSeen ∈ s.pastRxH ++ [s.rxh]) ∧
    (s.cfg.xsideView = .staleMonotone →
      s.txTailRead.pastTxT = [] ∧ s.txHeadRead.pastTxH = [] ∧ s.rxTailRead.pastRxT = [] ∧ s.rxHeadRead.pastRxH = [])

/-! ### The checksum, the builder and the validator -/

/-- R151: CRC16 answers the configured function's value, or BAD_OPERAND above `PAYLOAD_MAX`. -/
def Obligations.ChecksumAnswers : Prop :=
  ∀ (s : State) (bytes : List Byte), Ready s →
    (bytes.length ≤ s.cfg.payloadMax →
      exec (.crc16 bytes) s = .next { s with rsp := s.rsp ++ [⟨.ok, .checksum (crcOf s.cfg bytes)⟩] }) ∧
    (s.cfg.payloadMax < bytes.length →
      exec (.crc16 bytes) s = .next { s with rsp := s.rsp ++ [⟨.badOperand, .nothing⟩] })

/-- R155, R156: BUILD answers the frame and its length, `L + 5` or `L + 6`, or BAD_OPERAND above `PAYLOAD_MAX`. -/
def Obligations.BuildAnswers : Prop :=
  ∀ (s : State) (p : List Byte), Ready s →
    (p.length ≤ s.cfg.payloadMax → p.length ≤ 255 →
      exec (.build p) s = .next
        { s with
          rsp := s.rsp ++
            [⟨.ok, .bytes (p.length + 5)
              ([0x02#8, BitVec.ofNat 8 p.length] ++ p ++
                [(crcOf s.cfg p).extractLsb' 8 8, (crcOf s.cfg p).extractLsb' 0 8, 0x03#8])⟩] }) ∧
    (p.length ≤ s.cfg.payloadMax → 255 < p.length →
      exec (.build p) s = .next
        { s with
          rsp := s.rsp ++
            [⟨.ok, .bytes (p.length + 6)
              ([0x03#8, (BitVec.ofNat 16 p.length).extractLsb' 8 8, (BitVec.ofNat 16 p.length).extractLsb' 0 8] ++ p ++
                [(crcOf s.cfg p).extractLsb' 8 8, (crcOf s.cfg p).extractLsb' 0 8, 0x03#8])⟩] }) ∧
    (s.cfg.payloadMax < p.length →
      exec (.build p) s = .next { s with rsp := s.rsp ++ [⟨.badOperand, .nothing⟩] })

/-- R158, R159: UNPACK answers BAD_OPERAND above `FRAME_CAP`, MALFORMED when the shape is wrong, CRC_MISMATCH when the
recomputed checksum is not the embedded one, and else the payload. -/
def Obligations.UnpackAnswers : Prop :=
  ∀ (s : State) (f : List Byte), Ready s →
    (s.cfg.frameCap < f.length →
      exec (.unpack f) s = .next { s with rsp := s.rsp ++ [⟨.badOperand, .nothing⟩] }) ∧
    (f.length ≤ s.cfg.frameCap →
      ¬ (5 ≤ f.length ∧ byteAt f 0 = 0x02#8 ∧ f.length = (byteAt f 1).toNat + 5 ∧ byteAt f (f.length - 1) = 0x03#8) →
      exec (.unpack f) s = .next { s with rsp := s.rsp ++ [⟨.malformed, .nothing⟩] }) ∧
    (∀ L : Nat, f.length ≤ s.cfg.frameCap → byteAt f 0 = 0x02#8 → (byteAt f 1).toNat = L → f.length = L + 5 →
      byteAt f (L + 4) = 0x03#8 →
      exec (.unpack f) s = .next
        { s with
          rsp := s.rsp ++
            [if crcOf s.cfg ((f.drop 2).take L) = byteAt f (2 + L) ++ byteAt f (3 + L) then
              ⟨.ok, .bytes L ((f.drop 2).take L)⟩ else ⟨.crcMismatch, .nothing⟩] })

/-- R160: UNPACK of a frame BUILD made returns the payload. -/
def Obligations.UnpackOfBuildReturnsPayload : Prop :=
  ∀ (s : State) (p f : List Byte) (flen : Nat), Ready s → p.length ≤ 255 →
    exec (.build p) s = .next { s with rsp := s.rsp ++ [⟨.ok, .bytes flen f⟩] } →
    f.length = flen ∧ exec (.unpack f) s = .next { s with rsp := s.rsp ++ [⟨.ok, .bytes p.length p⟩] }

/-- R161: one changed byte of a short frame is CRC_MISMATCH in the checksum region, and in the payload region given P2 of
R153; in the TypeTag, the LengthByte or the EndMarker it is MALFORMED. -/
def Obligations.OneByteMutationDetected : Prop :=
  ∀ (s : State) (p : List Byte) (i : Nat) (x : Byte), Ready s → p.length ≤ 255 → p.length ≤ s.cfg.payloadMax →
    i < p.length + 5 → (frameOf s.cfg p)[i]? ≠ some x →
    ((i = p.length + 2 ∨ i = p.length + 3 ∨ (2 ≤ i ∧ i ≤ p.length + 1 ∧ crcTellsOneByteChange (crcOf s.cfg))) →
      exec (.unpack ((frameOf s.cfg p).set i x)) s = .next { s with rsp := s.rsp ++ [⟨.crcMismatch, .nothing⟩] }) ∧
    ((i = 0 ∨ i = 1 ∨ i = p.length + 4) →
      exec (.unpack ((frameOf s.cfg p).set i x)) s = .next { s with rsp := s.rsp ++ [⟨.malformed, .nothing⟩] })

/-- The recommended instance of R152 has property P2 of R153 (the spec's own inference, G3). -/
def Obligations.XmodemTellsOneByteChange : Prop := crcTellsOneByteChange xmodem

/-- R152, the table form of the recommended instance: one more byte is one look-up in the table of one-byte values. -/
def Obligations.XmodemTableForm : Prop :=
  ∀ (s : List Byte) (b : Byte),
    xmodem (s ++ [b]) = xmodem [(xmodem s).extractLsb' 8 8 ^^^ b] ^^^ (xmodem s <<< 8)

/-! ### The reassembler -/

/-- R171: RECV begins at V0, from Idle, and its poll and its yield do what the rule says: a poll that finds a byte goes to
the take and else to the yield, and the yield ends the call at the tenth round (R178). -/
def Obligations.RecvBeginsPollsAndYields : Prop :=
  (∀ s : State, Ready s → exec .recv s = .next { s with main := .recv ⟨[], 0#9, none, 0#8, 0#4, .poll⟩ }) ∧
  (∀ (s : State) (c : RecvCtx), s.line = .idle → s.main = .recv c → c.stage = .poll →
    agentStep s = .next
      ⟨{ s.rxHeadRead with
          main := .recv { c with
            stage := if 0 < (((s.rxHeadSeen : Int) - (s.rxt : Int)) % (s.cfg.rxCap : Int)).toNat then .take
                     else .yield } }, false⟩) ∧
  (∀ (s : State) (c : RecvCtx), s.line = .idle → s.main = .recv c → c.stage = .yield → c.round.toNat ≤ 9 →
    agentStep s = .next
      ⟨if c.round.toNat + 1 = 10 then s.finish .timedOut .nothing
        else { s with main := .recv { c with round := c.round + 1#4, stage := .poll } }, false⟩)

/-- R172, R95: the dispatch sets `EXP = RB[1] + 5`, in `5 .. 260` without wrap, and `PLEN = RB[1]` when byte 0 is 0x02, and
sets nothing for any other byte. -/
def Obligations.DispatchSetsExpectedLength : Prop :=
  ∀ (s : State) (c : RecvCtx),
    (c.byteAt s 0 = 0x02#8 →
      ∃ e, c.dispatch s = { c with exp := some e, plen := c.byteAt s 1 } ∧
        e.toNat = (c.byteAt s 1).toNat + 5 ∧ 5 ≤ e.toNat ∧ e.toNat ≤ 260) ∧
    (c.byteAt s 0 ≠ 0x02#8 → c.dispatch s = c)

/-- R174: the two orders of the end-tests differ in exactly one case, a count of 256 that is the expected length, with the
EndMarker last. -/
def Obligations.EndTestOrderMattersOnce : Prop :=
  ∀ (s : State) (c : RecvCtx), c.cnt.toNat ≤ 256 →
    (c.endTest { s with cfg := { s.cfg with reasmFullWins := true } } ≠
        c.endTest { s with cfg := { s.cfg with reasmFullWins := false } } ↔
      c.cnt.toNat = 256 ∧ c.exp = some c.cnt ∧ c.byteAt s 255 = 0x03#8)

/-- R171, R174 to R176: a take removes the oldest byte, stores it at `RB[CNT]`, dispatches at the second byte, and by the
end-tests goes on, finishes OVERFLOWED, or finishes Complete. -/
def Obligations.RecvTakeStoresByte : Prop :=
  ∀ (s : State) (c c1 : RecvCtx) (s1 : State), s.line = .idle → s.main = .recv c → c.stage = .take →
    s.rxt < s.cfg.rxCap → c.cnt.toNat < 256 →
    s1 = { s.rxHeadRead with rxt := (s.rxt + 1) % s.cfg.rxCap, pastRxT := remember s s.pastRxT s.rxt } →
    c1 = (let c2 : RecvCtx := { c with
            rb := Mem.write c.rb c.cnt.toNat (cellValue s .rxbuf s.rxbuf s.rxt), cnt := c.cnt + 1#9 }
          if c2.cnt = 2#9 then c2.dispatch s1 else c2) →
    (c1.endTest s1 = .more → agentStep s = .next ⟨{ s1 with main := .recv { c1 with stage := .poll } }, false⟩) ∧
    (c1.endTest s1 = .overflow → agentStep s = .next ⟨s1.finish .overflowed .nothing, false⟩) ∧
    (c1.endTest s1 = .finished → c1.plen.toNat ≤ 254 →
      agentStep s = .next
        ⟨if validate s.cfg ((List.range c1.cnt.toNat).map fun k => c1.byteAt s1 k) = .fail .crcMismatch then
            s1.finish .crcMismatch .nothing
          else s1.finish .ok (.bytes c1.plen.toNat ((List.range c1.plen.toNat).map fun k => c1.byteAt s1 (2 + k))),
          false⟩)

/-- R176, R181, R183: with a whole built frame buffered, RECV returns its payload, takes exactly the frame's bytes, and
leaves the rest in the ring and everything else as it was. `sched = []` says that no event lands inside
(notes/assumptions/11.md). -/
def Obligations.RecvReturnsBufferedFrame : Prop :=
  ∀ (s : State) (p rest : List Byte), Ready s → BlockInv s → s.cfg.xsideView = .exact → s.sched = [] →
    p.length ≤ s.cfg.payloadMax → p.length ≤ (if s.cfg.reasmFullWins then 250 else 251) →
    bufferedRx s = frameOf s.cfg p ++ rest →
    ∃ t u, exec .recv s = .next t ∧ runs (2 * (p.length + 5)) t = .next u ∧
      u = { s with rxt := u.rxt, rsp := s.rsp ++ [⟨.ok, .bytes p.length p⟩] } ∧ bufferedRx u = rest

/-- R178: on a ring that stays empty RECV finishes TIMED_OUT at its tenth empty poll, with `RXT` unchanged. -/
def Obligations.RecvTimesOutOnEmptyRing : Prop :=
  ∀ s : State, Ready s → s.cfg.xsideView = .exact → s.sched = [] → s.rxh = s.rxt →
    ∃ t, exec .recv s = .next t ∧ runs 20 t = .next { s with rsp := s.rsp ++ [⟨.timedOut, .nothing⟩] }

/-- R185: RECV always finishes: at most 256 takes and 10 yields, each after a poll. `sched = []` says that no event lands
inside (notes/assumptions/11.md). -/
def Obligations.RecvAlwaysFinishes : Prop :=
  ∀ s : State, Ready s → BlockInv s → s.sched = [] →
    ∃ n t u, n ≤ 532 ∧ exec .recv s = .next t ∧ runs n t = .next u ∧ u.main = .idle ∧
      ∃ r : Response, u.rsp = s.rsp ++ [r] ∧ r.status ∈ [Status.ok, .crcMismatch, .timedOut, .overflowed]

/-- R177, R180: a RECV past its second byte that can no longer complete (no length was set, or the count has reached it)
never returns OK: each of its steps leaves it so, or finishes it TIMED_OUT or OVERFLOWED. -/
def Obligations.RecvWithoutLengthFails : Prop :=
  ∀ (s : State) (c : RecvCtx) (u : Turn), BlockInv s → s.line = .idle → s.main = .recv c → 2 ≤ c.cnt.toNat →
    (∀ e, c.exp = some e → e.toNat ≤ c.cnt.toNat) → agentStep s = .next u →
    (∃ c', u.st.main = .recv c' ∧ u.st.rsp = s.rsp ∧ 2 ≤ c'.cnt.toNat ∧ (∀ e, c'.exp = some e → e.toNat ≤ c'.cnt.toNat)) ∨
    (u.st.main = .idle ∧ (u.st.rsp = s.rsp ++ [⟨.timedOut, .nothing⟩] ∨ u.st.rsp = s.rsp ++ [⟨.overflowed, .nothing⟩]))

/-- R179: the payload of a frame RECV completes is at most 250 bytes, or 251 with `REASM_FULL_WINS = false`. -/
def Obligations.LargestFrameRecvCompletes : Prop :=
  ∀ (s : State) (c : RecvCtx) (e : BitVec 9), c.cnt.toNat ≤ 256 → c.exp = some e → e.toNat = c.plen.toNat + 5 →
    c.endTest s = .finished → c.plen.toNat ≤ (if s.cfg.reasmFullWins then 250 else 251)

/-! ### The keep-alive cache -/

/-- R190, R191: STORE refuses a frame above `FRAME_CAP`, the cache unchanged; else its first step clears validity, and
nothing else. -/
def Obligations.StoreBeginsOrRefuses : Prop :=
  ∀ (s : State) (f : List Byte), Ready s →
    (s.cfg.frameCap < f.length →
      exec (.store f) s = .next { s with rsp := s.rsp ++ [⟨.badOperand, .nothing⟩] }) ∧
    (f.length ≤ s.cfg.frameCap →
      exec (.store f) s = .next
        { s with kvalid := false, main := .store f (if 0 < f.length then .s2 0 else .s3) })

/-- R191, R192: run to its end, STORE leaves `KVALID = 1`, `KLEN = flen` and the frame in `KC[0 .. flen)`, every other cell of
`KC` as it was, answers OK, and changes nothing else. -/
def Obligations.StoreFillsCache : Prop :=
  ∀ (s : State) (f : List Byte), Ready s → s.sched = [] → f.length ≤ s.cfg.frameCap →
    ∃ t u, exec (.store f) s = .next t ∧ runs (f.length + 2) t = .next u ∧
      u = { s with kc := u.kc, klen := f.length, kvalid := true, rsp := s.rsp ++ [⟨.ok, .nothing⟩] } ∧
      (∀ k, k < f.length → Mem.read? u.kc k = f[k]?) ∧ ∀ k, f.length ≤ k → Mem.read? u.kc k = Mem.read? s.kc k

/-- R195, R198: TICK runs RESEND's K1: with the cache not valid it changes nothing; else RESEND is in progress over `KLEN`
bytes, or has finished when there are none. -/
def Obligations.TickRunsResendCheck : Prop :=
  ∀ s : State, LineReady s →
    (s.kvalid = false → exec .tick s = .next s) ∧
    (s.kvalid = true → 0 < s.klen → exec .tick s = .next { s with line := .resend ⟨s.klen, 0, none⟩ }) ∧
    (s.kvalid = true → s.klen = 0 → exec .tick s = .next s)

/-- R198, R200: a TICK served while a STORE is between S1 and S4 does nothing. -/
def Obligations.TickDuringStoreDoesNothing : Prop :=
  ∀ (s : State) (f : List Byte) (stage : StoreStage), BlockInv s → s.up = true → s.line = .idle → s.main = .store f stage →
    exec .tick s = .next s

/-- R199: with the cache valid and room in the TX ring, RESEND appends exactly the cached frame to the TX ring, in order and
with nothing in between, enables the sender when the frame is not empty, and changes nothing else. `sched = []` says that no
event lands inside (notes/assumptions/11.md); that TICK and exactly `KLEN` steps are the whole of it rests on
notes/assumptions/16.md. -/
def Obligations.ResendAppendsCachedFrame : Prop :=
  ∀ s : State, LineReady s → BlockInv s → Plain s → s.sched = [] → s.kvalid = true →
    s.klen ≤ avail s.txh s.txt s.cfg.txCap →
    ∃ t u, exec .tick s = .next t ∧ runs s.klen t = .next u ∧
      u = { s with txbuf := u.txbuf, txh := u.txh, txie := u.txie } ∧
      bufferedTx u = bufferedTx s ++ cachedFrame s ∧ u.txie = (if 0 < s.klen then true else s.txie)

/-- R197: a RESEND held on a full ring with `abort = 0` and nothing in the environment that may be served leaves the whole
block as it is, step after step. -/
def Obligations.HeldResendHoldsTheBlock : Prop :=
  ∀ (s : State) (c : ResendCtx) (b : Byte), Plain s → s.up = true → s.sched = [] → s.line = .resend c →
    c.tx = some ⟨b, .wait⟩ → c.ri < c.rlen → ringFull s.txh s.txt s.cfg.txCap = true → s.abort = false →
    nothingServable s → ∀ n, runs n s = .next s

/-- R196, R197: `abort = 1` frees a held RESEND: its byte is not sent, and RESEND goes on with the next byte or finishes. -/
def Obligations.AbortFreesHeldResend : Prop :=
  ∀ (s : State) (c : ResendCtx) (b : Byte), Plain s → s.up = true → s.sched = [] → s.line = .resend c →
    c.tx = some ⟨b, .wait⟩ → c.ri < c.rlen → ringFull s.txh s.txt s.cfg.txCap = true → s.abort = true →
    step s = .next
      { s with line := if c.ri + 1 < c.rlen then .resend ⟨c.rlen, c.ri + 1, none⟩ else .idle }

/-! ### The two sides, the environment, reset -/

/-- R70 items 1 to 3, R71: a main-side request while one is in flight is refused; one made while the line side is in progress
is taken without a step; a line event made then waits, but for a TXPOP inside a waiting RESEND with `LINE_NESTING`.
That what waits stands at the head of the trace is the model's (notes/assumptions/12.md). -/
def Obligations.OneOperationPerSide : Prop :=
  (∀ (s : State) (i : Instr), s.up = true → i.port = .main → s.main ≠ .idle → exec i s = .refused .requestInFlight) ∧
  (∀ (s : State) (i : Instr), s.up = true → i.port = .main → s.main = .idle → s.line ≠ .idle →
    exec i s = .next { s with main := .issued i }) ∧
  (∀ (s : State) (i : Instr), s.up = true → i.port = .line → s.line ≠ .idle → (i = .txpop → s.cfg.lineNesting = false) →
    exec i s = .next { s with trace := encode i ++ s.trace })

/-- R71, R243: with `LINE_NESTING = true` a TXPOP is served inside a RESEND in the wait step of a TXW (`TXW.wait` enabled, or
W2 about to hold), exactly as with no line operation in progress, and RESEND stays where it was; with the exact view a TXPOP
made anywhere else in a RESEND waits, at the head of the trace (notes/assumptions/12.md). -/
def Obligations.NestedTxpopServed : Prop :=
  (∀ (s : State) (c : ResendCtx) (x : TxwCtx), s.up = true → s.cfg.lineNesting = true → s.line = .resend c →
    c.tx = some x → s.abort = false →
    ((x.stage = .wait ∧ ringFull s.txh s.txTailSeen s.cfg.txCap = true) ∨ ∃ wh, x.stage = .w2 wh s.txTailSeen) →
    s.txie = true → s.txHeadSeen ≠ s.txt → s.txt < s.cfg.txCap →
    exec .txpop s = .next
      { s.txHeadRead with
        txt := (s.txt + 1) % s.cfg.txCap, pastTxT := remember s s.pastTxT s.txt
        wireOut := s.wireOut ++ [cellValue s .txbuf s.txbuf s.txt]
        txie := if (s.txt + 1) % s.cfg.txCap = s.txHeadSeen then false else true }) ∧
  (∀ (s : State) (c : ResendCtx), s.up = true → s.cfg.xsideView = .exact → s.line = .resend c →
    (s.abort = true ∨ c.tx = none ∨ ∃ x, c.tx = some x ∧ (x.stage = .wait → ringFull s.txh s.txt s.cfg.txCap = false) ∧
      ∀ wh wn, x.stage = .w2 wh wn → wn ≠ s.txt) →
    exec .txpop s = .next { s with trace := encode .txpop ++ s.trace })

/-- R262, U20: before the first reset every operation and event is refused, the model's choice (notes/assumptions/15.md). -/
def Obligations.RefusedBeforeFirstReset : Prop :=
  ∀ (s : State) (i : Instr), s.up = false → (i.port = .main ∨ i.port = .line) → exec i s = .refused .beforeReset

/-- R41: `abort` is a level of the environment's: driving it changes no state of the block (R261), and no other item, a
reset among them, changes it. -/
def Obligations.AbortChangesOnlyTheLevel : Prop :=
  (∀ s : State, exec .abort0 s = .next { s with abort := false } ∧ exec .abort1 s = .next { s with abort := true }) ∧
  ∀ (i : Instr) (s t : State), exec i s = .next t → i ≠ .abort0 → i ≠ .abort1 → t.abort = s.abort

/-- R42, R50, R260: `rst` leaves the values of R50 whatever was in flight: the four indices 0, `TXIE`, `KVALID` and `KLEN` 0,
no operation in flight, no array cell holding a value, the wire traces empty. -/
def Obligations.ResetLeavesTheStatedValues : Prop :=
  ∀ s : State, ∃ t, exec .rst s = .next t ∧
    t.rxh = 0 ∧ t.rxt = 0 ∧ t.txh = 0 ∧ t.txt = 0 ∧ t.txie = false ∧ t.kvalid = false ∧ t.klen = 0 ∧
    t.main = .idle ∧ t.line = .idle ∧ (∀ a, Mem.read? t.rxbuf a = none) ∧ (∀ a, Mem.read? t.txbuf a = none) ∧
    (∀ a, Mem.read? t.kc a = none) ∧ t.wireOut = [] ∧ t.wireIn = []

/-- R20, the last column of its table, and R24, R78: which items write which element. An element not in the row of an item is
unchanged when exec answers a next state. -/
def Obligations.ItemsWriteOnlyTheirElements : Prop :=
  ∀ (i : Instr) (s t : State), exec i s = .next t → i ≠ .rst →
    t.cfg = s.cfg ∧ t.kc = s.kc ∧ t.klen = s.klen ∧ t.epoch = s.epoch ∧
    ((∀ d, i ≠ .rxpush d) → t.rxbuf = s.rxbuf ∧ t.rxh = s.rxh ∧ t.wireIn = s.wireIn) ∧
    (i ≠ .rxr → t.rxt = s.rxt) ∧
    ((∀ b, i ≠ .txw b) → t.txbuf = s.txbuf ∧ t.txh = s.txh) ∧
    (i ≠ .txpop → t.txt = s.txt ∧ t.wireOut = s.wireOut) ∧
    ((∀ b, i ≠ .txw b) → i ≠ .txpop → t.txie = s.txie) ∧
    ((∀ f, i ≠ .store f) → t.kvalid = s.kvalid)

/-- R20, R27, R29, R170: which elements the agents in progress write. A RECV moves `RXT` only, a STORE writes the cache only, a
RESEND writes the TX ring's producer side only. -/
def Obligations.AgentsWriteOnlyTheirElements : Prop :=
  ∀ (s : State) (u : Turn), agentStep s = .next u →
    (∀ c, s.line = .idle → s.main = .recv c →
      u.st.rxbuf = s.rxbuf ∧ u.st.rxh = s.rxh ∧ u.st.txbuf = s.txbuf ∧ u.st.txh = s.txh ∧ u.st.txt = s.txt ∧
      u.st.txie = s.txie ∧ u.st.kc = s.kc ∧ u.st.klen = s.klen ∧ u.st.kvalid = s.kvalid ∧ u.st.wireOut = s.wireOut) ∧
    (∀ f stage, s.line = .idle → s.main = .store f stage →
      u.st.rxbuf = s.rxbuf ∧ u.st.rxh = s.rxh ∧ u.st.rxt = s.rxt ∧ u.st.txbuf = s.txbuf ∧ u.st.txh = s.txh ∧
      u.st.txt = s.txt ∧ u.st.txie = s.txie ∧ u.st.wireOut = s.wireOut) ∧
    (∀ c, s.line = .resend c →
      u.st.rxbuf = s.rxbuf ∧ u.st.rxh = s.rxh ∧ u.st.rxt = s.rxt ∧ u.st.txt = s.txt ∧ u.st.kc = s.kc ∧
      u.st.klen = s.klen ∧ u.st.kvalid = s.kvalid ∧ u.st.wireOut = s.wireOut ∧ u.st.main = s.main ∧ u.st.rsp = s.rsp)

/-- R5, R20, R29: the ring indices and `KLEN`, `RLEN` and `RI` fit the registers of the widths the rules give, and these are
the smallest that hold their ranges: `ceil(log2(CAP))` and `ceil(log2(FRAME_CAP + 1))`. -/
def Obligations.RegistersFitTheirWidths : Prop :=
  ∀ s : State, BlockInv s →
    (s.rxhReg.toNat = s.rxh ∧ s.rxtReg.toNat = s.rxt ∧ s.txhReg.toNat = s.txh ∧ s.txtReg.toNat = s.txt ∧
      s.klenReg.toNat = s.klen) ∧
    (∀ c, s.line = .resend c → c.rlen < 2 ^ s.cfg.lenWidth ∧ c.ri < 2 ^ s.cfg.lenWidth) ∧
    (∀ w, s.cfg.rxCap ≤ 2 ^ w ↔ s.cfg.idxwRx ≤ w) ∧ (∀ w, s.cfg.txCap ≤ 2 ^ w ↔ s.cfg.idxwTx ≤ w) ∧
    ∀ w, s.cfg.frameCap + 1 ≤ 2 ^ w ↔ s.cfg.lenWidth ≤ w

/-- R46: no step changes a parameter. -/
def Obligations.StepKeepsParameters : Prop := ∀ s t : State, step s = .next t → t.cfg = s.cfg

/-! ### The invariant -/

/-- The state after reset has the invariant and the streaming contract (R23, R25, R50, R138). -/
def Obligations.ResetStateSound : Prop := BlockInv State.reset ∧ Streaming State.reset

/-- R23, R25, R62: every step from a state with the invariant leads to one, whatever the parameters, the environment and the
schedule are. -/
def Obligations.StepKeepsInvariant : Prop := ∀ s t : State, BlockInv s → step s = .next t → BlockInv t

/-- R62: from a state with the invariant no step faults: no index leaves its array. -/
def Obligations.StepNeverFaults : Prop := ∀ s : State, BlockInv s → ¬ Faults (step s)

/-! ### The host's use of the block -/

/-- R210, R212, R217: the items SEND, REQUEST and SETCMD stand for; a command's frame has 10 bytes. That REQUEST issues RECV
also where BUILD refuses the payload is the model's choice (notes/assumptions/22.md). -/
def Obligations.PseudoOperationsExpand : Prop :=
  ∀ (p : Config.Params) (payload : List Byte) (id : Byte) (v : BitVec 32), p.wf = true →
    (payload.length ≤ p.payloadMax →
      sendItems p payload = .build payload :: .store (frameOf p payload) :: (frameOf p payload).map .txw) ∧
    (p.payloadMax < payload.length → sendItems p payload = [.build payload]) ∧
    requestItems p payload = sendItems p payload ++ [.recv] ∧
    setcmdItems p id v =
      sendItems p [id, v.extractLsb' 24 8, v.extractLsb' 16 8, v.extractLsb' 8 8, v.extractLsb' 0 8] ∧
    (commandFrame p id v).length = 10

/-- R213, R215: the host takes a RECV result as usable only when its status is OK, its first byte is GET_VALUES and it has 55
bytes or more; a shorter one is ShortResponse, another identifier is UnknownCommand, every other status is Failure. -/
def Obligations.HostTakesOnlyUsableResponses : Prop :=
  ∀ (p : Config.Params) (n : Nat) (st : Status) (id : Byte) (rest : List Byte) (val : RspValue),
    (id = p.cmdGetValues → 55 ≤ rest.length + 1 → hostVerdict p ⟨.ok, .bytes n (id :: rest)⟩ = .decode (id :: rest)) ∧
    (id = p.cmdGetValues → rest.length + 1 < 55 → hostVerdict p ⟨.ok, .bytes n (id :: rest)⟩ = .shortResponse) ∧
    (id ≠ p.cmdGetValues → hostVerdict p ⟨.ok, .bytes n (id :: rest)⟩ = .unknownCommand) ∧
    (st ≠ .ok → hostVerdict p ⟨st, val⟩ = .noUsableResponse st)
end

