-- ==== Sys2Proof/Laws/Decode.lean ====
section
/-! SUPPORT. Small facts of the two encodings: 16-bit fields, padded words, and what a length operand decodes to. -/

namespace Sys2Proof

/-- A 16-bit value is its high byte times 256 plus its low byte (R96). -/
theorem half_toNat (hi lo : Byte) : (half hi lo).toNat = hi.toNat * 256 + lo.toNat := by
  unfold half
  rw [BitVec.toNat_append]
  have := lo.isLt
  rw [← Nat.shiftLeft_add_eq_or_of_lt this, Nat.shiftLeft_eq]

/-- Splitting a 16-bit value and putting it together again (R96). -/
@[simp] theorem half_hiByte_loByte (v : Half) : half (hiByte v) (loByte v) = v := by
  apply BitVec.eq_of_toNat_eq
  rw [half_toNat]
  simp only [hiByte, loByte, BitVec.extractLsb'_toNat, Nat.shiftRight_eq_div_pow]
  have := v.isLt
  omega

/-- The high byte of two bytes put together (R96). -/
@[simp] theorem hiByte_half (hi lo : Byte) : hiByte (half hi lo) = hi := by
  apply BitVec.eq_of_toNat_eq
  simp only [hiByte, BitVec.extractLsb'_toNat, Nat.shiftRight_eq_div_pow, half_toNat]
  have := hi.isLt; have := lo.isLt
  omega

/-- The low byte of two bytes put together (R96). -/
@[simp] theorem loByte_half (hi lo : Byte) : loByte (half hi lo) = lo := by
  apply BitVec.eq_of_toNat_eq
  simp only [loByte, BitVec.extractLsb'_toNat, Nat.shiftRight_eq_div_pow, half_toNat]
  have := hi.isLt; have := lo.isLt
  omega

/-- Equal 16-bit values have equal bytes. -/
theorem half_inj {a b c d : Byte} (h : half a b = half c d) : a = c ∧ b = d :=
  ⟨by rw [← hiByte_half a b, h, hiByte_half], by rw [← loByte_half a b, h, loByte_half]⟩

/-- The decoder of a length operand reads back what the encoder wrote (R103). -/
theorem fetchBytes_lengthAndBytes (c : Byte) (mk : List Byte → Instr) (bytes rest : List Byte)
    (h : fitsLength16 bytes = true) : fetchBytes c mk (lengthAndBytes bytes ++ rest) = .item (mk bytes) rest := by
  have hl : bytes.length < 65536 := by simpa [fitsLength16] using h
  simp [lengthAndBytes, fetchBytes, Nat.mod_eq_of_lt hl]

/-- The length of a short frame is `L + 5` (R91). -/
@[simp] theorem shortFrame_length (p : List Byte) (c : Half) : (shortFrame p c).length = p.length + 5 := by
  simp [shortFrame]

/-- The length of an extended frame is `L + 6` (R92). -/
@[simp] theorem extFrame_length (p : List Byte) (c : Half) : (extFrame p c).length = p.length + 6 := by
  simp [extFrame]

end Sys2Proof
end

