-- ==== Sys2Proof/Laws/Memory.lean ====
section
/-! SUPPORT. The byte arrays: read after write, the canonical form, and what a cell access can answer. -/

namespace Sys2Proof.Machine

@[simp] theorem Mem.read?_nil (i : Nat) : Mem.read? [] i = none := rfl

/-- A cell just written holds the byte written. -/
@[simp] theorem Mem.read?_write_same (m : Mem) (i : Nat) (b : Byte) : Mem.read? (Mem.write m i b) i = some b := by
  induction m with
  | nil => simp [Mem.write, Mem.read?]
  | cons c m ih =>
    obtain ⟨a, x⟩ := c
    unfold Mem.write
    split
    · simp [Mem.read?]
    · split
      · simp [Mem.read?]
      · simp_all [Mem.read?]; omega

/-- A write leaves every other cell alone. -/
theorem Mem.read?_write_other (m : Mem) {i j : Nat} (b : Byte) (h : j ≠ i) :
    Mem.read? (Mem.write m i b) j = Mem.read? m j := by
  induction m with
  | nil => simp [Mem.write, Mem.read?, h.symm]
  | cons c m ih =>
    obtain ⟨a, x⟩ := c
    unfold Mem.write
    split
    · simp [Mem.read?, h.symm]
    · split
      · rename_i e
        subst e
        simp [Mem.read?, Ne.symm h]
      · simp [Mem.read?, ih]

/-- The indices a write lists: those listed before, and the one written. -/
theorem Mem.mem_write {m : Mem} {i : Nat} {b : Byte} {c : Host.Cell} (h : c ∈ Mem.write m i b) :
    c ∈ m ∨ c = (i, b) := by
  induction m with
  | nil => simp [Mem.write] at h; exact .inr h
  | cons d m ih =>
    obtain ⟨a, x⟩ := d
    unfold Mem.write at h
    split at h
    · simp at h ⊢; tauto
    · split at h
      · simp at h ⊢; tauto
      · simp at h ⊢
        rcases h with rfl | h
        · exact .inl (.inl rfl)
        · rcases ih h with h | h
          · exact .inl (.inr h)
          · exact .inr h

/-- A write keeps the canonical form. -/
theorem Mem.wf_write {m : Mem} (h : Mem.wf m) (i : Nat) (b : Byte) : Mem.wf (Mem.write m i b) := by
  induction m with
  | nil => simp [Mem.write, Mem.wf]
  | cons d m ih =>
    obtain ⟨a, x⟩ := d
    simp only [Mem.wf, List.pairwise_cons] at h ih
    unfold Mem.write
    split
    · rename_i hlt
      simp only [Mem.wf, List.pairwise_cons]
      refine ⟨?_, h⟩
      intro c hc
      rcases List.mem_cons.1 hc with rfl | hc
      · exact hlt
      · exact Nat.lt_trans hlt (h.1 c hc)
    · split
      · rename_i h1 h2
        subst h2
        simp only [Mem.wf, List.pairwise_cons]
        exact h
      · simp only [Mem.wf, List.pairwise_cons]
        refine ⟨?_, ih h.2⟩
        intro c hc
        rcases Mem.mem_write hc with hc | rfl
        · exact h.1 c hc
        · show a < i
          omega

/-- A write inside an array keeps every cell inside it. -/
theorem Mem.below_write {m : Mem} {n i : Nat} (h : Mem.below m n) (hi : i < n) (b : Byte) :
    Mem.below (Mem.write m i b) n := by
  intro c hc
  rcases Mem.mem_write hc with hc | rfl
  · exact h c hc
  · exact hi

/-- A write keeps every cell that holds a value holding one. -/
theorem Mem.isSome_write {m : Mem} {j : Nat} (i : Nat) (b : Byte) (h : (Mem.read? m j).isSome) :
    (Mem.read? (Mem.write m i b) j).isSome := by
  by_cases hj : j = i
  · subst hj; simp
  · rw [Mem.read?_write_other m b hj]; exact h

/-- A prefix that holds is extended by the write of its next byte. -/
theorem Mem.holds_write {m : Mem} {n : Nat} {f : List Byte} (h : Mem.holds m n f) :
    Mem.holds (Mem.write m n (byteAt f n)) (n + 1) f := by
  intro k hk
  by_cases e : k = n
  · subst e; simp
  · rw [Mem.read?_write_other m _ e]; exact h k (by omega)

/-- Reading a cell answers its byte, or faults exactly when the array has no such cell. -/
theorem readCell_eq (s : State) (arr : Config.ArrayId) (m : Mem) (i : Nat) :
    (i < arraySize s.cfg arr ∧ readCell s arr m i = .next (cellValue s arr m i)) ∨
      (¬ i < arraySize s.cfg arr ∧ readCell s arr m i = .fault (.noSuchCell arr i)) := by
  unfold readCell
  by_cases h : i < arraySize s.cfg arr
  · exact .inl ⟨h, by simp [h]⟩
  · exact .inr ⟨h, by simp [h]⟩

/-- Inside its array, a cell can be read. -/
theorem readCell_next {s : State} {arr : Config.ArrayId} {m : Mem} {i : Nat} (h : i < arraySize s.cfg arr) :
    readCell s arr m i = .next (cellValue s arr m i) := by simp [readCell, h]

/-- Inside its array, a cell can be written. -/
theorem writeCell_next {s : State} {arr : Config.ArrayId} {m : Mem} {i : Nat} {b : Byte}
    (h : i < arraySize s.cfg arr) : writeCell s arr m i b = .next (Mem.write m i b) := by simp [writeCell, h]

/-- If a write answers memory, the cell exists and the memory is the written one. -/
theorem writeCell_eq_next {s : State} {arr : Config.ArrayId} {m m' : Mem} {i : Nat} {b : Byte}
    (h : writeCell s arr m i b = .next m') : i < arraySize s.cfg arr ∧ m' = Mem.write m i b := by
  unfold writeCell at h
  split at h
  · rename_i hi; cases h; exact ⟨hi, rfl⟩
  · cases h

/-- If a read answers a byte, the cell exists and the byte is its value. -/
theorem readCell_eq_next {s : State} {arr : Config.ArrayId} {m : Mem} {i : Nat} {b : Byte}
    (h : readCell s arr m i = .next b) : i < arraySize s.cfg arr ∧ b = cellValue s arr m i := by
  unfold readCell at h
  split at h
  · rename_i hi; cases h; exact ⟨hi, rfl⟩
  · cases h

/-- If a span can be read, it lies inside its array and holds the cells' values. -/
theorem readSpan_eq_next {s : State} {arr : Config.ArrayId} {m : Mem} {lo n : Nat} {bs : List Byte}
    (h : readSpan s arr m lo n = .next bs) :
    lo + n ≤ arraySize s.cfg arr ∧ bs = (List.range n).map fun k => cellValue s arr m (lo + k) := by
  unfold readSpan at h
  split at h
  · rename_i hi; cases h; exact ⟨hi, rfl⟩
  · cases h

/-- Inside its array, a span can be read. -/
theorem readSpan_next {s : State} {arr : Config.ArrayId} {m : Mem} {lo n : Nat} (h : lo + n ≤ arraySize s.cfg arr) :
    readSpan s arr m lo n = .next ((List.range n).map fun k => cellValue s arr m (lo + k)) := by simp [readSpan, h]

/-- A cell that holds a byte reads as that byte, whatever the free values are. -/
theorem cellValue_of_read {s : State} {arr : Config.ArrayId} {m : Mem} {i : Nat} {b : Byte}
    (h : Mem.read? m i = some b) : cellValue s arr m i = b := by simp [cellValue, h]

/-- At reset every array has the canonical form. -/
theorem reset_mem_wf : Mem.wf State.reset.rxbuf ∧ Mem.wf State.reset.txbuf ∧ Mem.wf State.reset.kc := by
  simp [State.reset, Mem.wf]

@[simp] theorem arraySize_rxbuf (p : Config.Params) : arraySize p .rxbuf = p.rxCap := rfl
@[simp] theorem arraySize_txbuf (p : Config.Params) : arraySize p .txbuf = p.txCap := rfl
@[simp] theorem arraySize_kc (p : Config.Params) : arraySize p .kc = p.frameCap := rfl
@[simp] theorem arraySize_rb (p : Config.Params) : arraySize p .rb = 256 := rfl

end Sys2Proof.Machine
end

