-- ==== Sys2Proof/Laws/Ring.lean ====
section
/-! SUPPORT. The arithmetic of a ring: the successor of a slot, the occupancy and the free count (spec/10_state.md R33). -/

namespace Sys2Proof.Machine

theorem nextSlot_lt {x cap : Nat} (h : 0 < cap) : nextSlot x cap < cap := Nat.mod_lt _ h

/-- The successor of a slot in range: the next one, or 0 after the last. -/
theorem nextSlot_eq {x cap : Nat} (h : x < cap) : nextSlot x cap = if x + 1 = cap then 0 else x + 1 := by
  unfold nextSlot
  split
  · rename_i e; rw [e]; exact Nat.mod_self cap
  · exact Nat.mod_eq_of_lt (by omega)

/-- The occupancy of a ring whose indices are in range, without a remainder. -/
theorem occ_eq {h t cap : Nat} (hh : h < cap) (ht : t < cap) : occ h t cap = if t ≤ h then h - t else h + cap - t := by
  unfold occ
  split
  · rename_i hle
    have : (((h : Int) - (t : Int)) % (cap : Int)) = ((h - t : Nat) : Int) := by
      rw [Int.emod_eq_of_lt] <;> omega
    omega
  · rename_i hle
    have e : ((h : Int) - (t : Int)) % (cap : Int) = ((h : Int) - t + cap) % (cap : Int) := by simp
    have : (((h : Int) - (t : Int)) % (cap : Int)) = ((h + cap - t : Nat) : Int) := by
      rw [e, Int.emod_eq_of_lt] <;> omega
    omega

/-- The occupancy is below the number of slots. -/
theorem occ_lt {h t cap : Nat} (hh : h < cap) (ht : t < cap) : occ h t cap < cap := by
  rw [occ_eq hh ht]; split <;> omega

/-- A ring is empty exactly when its occupancy is 0. -/
theorem occ_eq_zero {h t cap : Nat} (hh : h < cap) (ht : t < cap) : occ h t cap = 0 ↔ h = t := by
  rw [occ_eq hh ht]; split <;> omega

/-- A ring is full exactly when it holds `N` bytes. -/
theorem ringFull_iff_occ {h t cap : Nat} (hh : h < cap) (ht : t < cap) (hc : 2 ≤ cap) :
    ringFull h t cap = true ↔ occ h t cap = cap - 1 := by
  unfold ringFull
  rw [nextSlot_eq hh, occ_eq hh ht]
  simp only [beq_iff_eq]
  split <;> split <;> omega

/-- Advancing the head of a ring that is not full adds one byte. -/
theorem occ_push {h t cap : Nat} (hh : h < cap) (ht : t < cap) (hf : ringFull h t cap = false) :
    occ (nextSlot h cap) t cap = occ h t cap + 1 := by
  have hn : nextSlot h cap < cap := nextSlot_lt (by omega)
  have hne : nextSlot h cap ≠ t := by simpa [ringFull] using hf
  rw [occ_eq hn ht, occ_eq hh ht]
  rw [nextSlot_eq hh] at hn hne ⊢
  by_cases e : h + 1 = cap
  · rw [if_pos e] at hne ⊢
    split <;> split <;> omega
  · rw [if_neg e] at hne ⊢
    split <;> split <;> omega

/-- Advancing the tail of a ring that is not empty takes one byte away. -/
theorem occ_pop {h t cap : Nat} (hh : h < cap) (ht : t < cap) (hne : h ≠ t) :
    occ h (nextSlot t cap) cap + 1 = occ h t cap := by
  have hn : nextSlot t cap < cap := nextSlot_lt (by omega)
  rw [occ_eq hh hn, occ_eq hh ht, nextSlot_eq ht]
  split <;> split <;> split <;> omega

/-- Used and free slots together are `N`. -/
theorem occ_add_avail {h t cap : Nat} (hh : h < cap) (ht : t < cap) : occ h t cap + avail h t cap = cap - 1 := by
  have := occ_lt hh ht
  unfold avail; omega

/-- The slot just past the buffered bytes is the head. -/
theorem slot_at_occ {h t cap : Nat} (hh : h < cap) (ht : t < cap) : (t + occ h t cap) % cap = h := by
  rw [occ_eq hh ht]
  split
  · rw [show t + (h - t) = h by omega]; exact Nat.mod_eq_of_lt hh
  · rw [show t + (h + cap - t) = h + cap by omega, Nat.add_mod_right]; exact Nat.mod_eq_of_lt hh

/-- The buffered slot after the oldest is where the advanced tail points. -/
theorem slot_after_pop {t k cap : Nat} : (nextSlot t cap + k) % cap = (t + (k + 1)) % cap := by
  unfold nextSlot
  rw [Nat.mod_add_mod]; congr 1; omega

/-- `ceil(log2(n))` is the smallest width that holds `n` values (R5, R20). -/
theorem ceilLog2_le_iff (n w : Nat) : Config.ceilLog2 n ≤ w ↔ n ≤ 2 ^ w := by
  unfold Config.ceilLog2
  split
  · have := Nat.one_le_two_pow (n := w); omega
  · rename_i h
    have : Nat.log2 (n - 1) < w ↔ n - 1 < 2 ^ w := Nat.log2_lt (by omega)
    omega

end Sys2Proof.Machine
end

