-- ==== Sys2Proof/Laws/State.lean ====
section
/-! SUPPORT. One lemma per field for each named update of State: what the update leaves in that field. -/

namespace Sys2Proof.Machine

/-! ### `finish`: the result goes out and nothing is in flight -/

@[simp] theorem finish_cfg (s : State) (st : Status) (v : RspValue) : (s.finish st v).cfg = s.cfg := rfl
@[simp] theorem finish_up (s : State) (st : Status) (v : RspValue) : (s.finish st v).up = s.up := rfl
@[simp] theorem finish_rxbuf (s : State) (st : Status) (v : RspValue) : (s.finish st v).rxbuf = s.rxbuf := rfl
@[simp] theorem finish_rxh (s : State) (st : Status) (v : RspValue) : (s.finish st v).rxh = s.rxh := rfl
@[simp] theorem finish_rxt (s : State) (st : Status) (v : RspValue) : (s.finish st v).rxt = s.rxt := rfl
@[simp] theorem finish_txbuf (s : State) (st : Status) (v : RspValue) : (s.finish st v).txbuf = s.txbuf := rfl
@[simp] theorem finish_txh (s : State) (st : Status) (v : RspValue) : (s.finish st v).txh = s.txh := rfl
@[simp] theorem finish_txt (s : State) (st : Status) (v : RspValue) : (s.finish st v).txt = s.txt := rfl
@[simp] theorem finish_txie (s : State) (st : Status) (v : RspValue) : (s.finish st v).txie = s.txie := rfl
@[simp] theorem finish_kc (s : State) (st : Status) (v : RspValue) : (s.finish st v).kc = s.kc := rfl
@[simp] theorem finish_klen (s : State) (st : Status) (v : RspValue) : (s.finish st v).klen = s.klen := rfl
@[simp] theorem finish_kvalid (s : State) (st : Status) (v : RspValue) : (s.finish st v).kvalid = s.kvalid := rfl
@[simp] theorem finish_main (s : State) (st : Status) (v : RspValue) : (s.finish st v).main = .idle := rfl
@[simp] theorem finish_line (s : State) (st : Status) (v : RspValue) : (s.finish st v).line = s.line := rfl
@[simp] theorem finish_abort (s : State) (st : Status) (v : RspValue) : (s.finish st v).abort = s.abort := rfl
@[simp] theorem finish_wireOut (s : State) (st : Status) (v : RspValue) : (s.finish st v).wireOut = s.wireOut := rfl
@[simp] theorem finish_wireIn (s : State) (st : Status) (v : RspValue) : (s.finish st v).wireIn = s.wireIn := rfl
@[simp] theorem finish_rsp (s : State) (st : Status) (v : RspValue) : (s.finish st v).rsp = s.rsp ++ [⟨st, v⟩] := rfl
@[simp] theorem finish_marked (s : State) (st : Status) (v : RspValue) : (s.finish st v).marked = s.marked := rfl
@[simp] theorem finish_trace (s : State) (st : Status) (v : RspValue) : (s.finish st v).trace = s.trace := rfl
@[simp] theorem finish_sched (s : State) (st : Status) (v : RspValue) : (s.finish st v).sched = s.sched := rfl
@[simp] theorem finish_pastRxT (s : State) (st : Status) (v : RspValue) : (s.finish st v).pastRxT = s.pastRxT := rfl
@[simp] theorem finish_pastRxH (s : State) (st : Status) (v : RspValue) : (s.finish st v).pastRxH = s.pastRxH := rfl
@[simp] theorem finish_pastTxT (s : State) (st : Status) (v : RspValue) : (s.finish st v).pastTxT = s.pastTxT := rfl
@[simp] theorem finish_pastTxH (s : State) (st : Status) (v : RspValue) : (s.finish st v).pastTxH = s.pastTxH := rfl
@[simp] theorem finish_epoch (s : State) (st : Status) (v : RspValue) : (s.finish st v).epoch = s.epoch := rfl
@[simp] theorem finish_draws (s : State) (st : Status) (v : RspValue) : (s.finish st v).draws = s.draws := rfl

/-! ### `setTxH`: the index `txh` is written -/

@[simp] theorem setTxH_cfg (s : State) (v : Nat) : (s.setTxH v).cfg = s.cfg := rfl
@[simp] theorem setTxH_up (s : State) (v : Nat) : (s.setTxH v).up = s.up := rfl
@[simp] theorem setTxH_rxbuf (s : State) (v : Nat) : (s.setTxH v).rxbuf = s.rxbuf := rfl
@[simp] theorem setTxH_rxh (s : State) (v : Nat) : (s.setTxH v).rxh = s.rxh := rfl
@[simp] theorem setTxH_rxt (s : State) (v : Nat) : (s.setTxH v).rxt = s.rxt := rfl
@[simp] theorem setTxH_txbuf (s : State) (v : Nat) : (s.setTxH v).txbuf = s.txbuf := rfl
@[simp] theorem setTxH_txh (s : State) (v : Nat) : (s.setTxH v).txh = v := rfl
@[simp] theorem setTxH_txt (s : State) (v : Nat) : (s.setTxH v).txt = s.txt := rfl
@[simp] theorem setTxH_txie (s : State) (v : Nat) : (s.setTxH v).txie = s.txie := rfl
@[simp] theorem setTxH_kc (s : State) (v : Nat) : (s.setTxH v).kc = s.kc := rfl
@[simp] theorem setTxH_klen (s : State) (v : Nat) : (s.setTxH v).klen = s.klen := rfl
@[simp] theorem setTxH_kvalid (s : State) (v : Nat) : (s.setTxH v).kvalid = s.kvalid := rfl
@[simp] theorem setTxH_main (s : State) (v : Nat) : (s.setTxH v).main = s.main := rfl
@[simp] theorem setTxH_line (s : State) (v : Nat) : (s.setTxH v).line = s.line := rfl
@[simp] theorem setTxH_abort (s : State) (v : Nat) : (s.setTxH v).abort = s.abort := rfl
@[simp] theorem setTxH_wireOut (s : State) (v : Nat) : (s.setTxH v).wireOut = s.wireOut := rfl
@[simp] theorem setTxH_wireIn (s : State) (v : Nat) : (s.setTxH v).wireIn = s.wireIn := rfl
@[simp] theorem setTxH_rsp (s : State) (v : Nat) : (s.setTxH v).rsp = s.rsp := rfl
@[simp] theorem setTxH_marked (s : State) (v : Nat) : (s.setTxH v).marked = s.marked := rfl
@[simp] theorem setTxH_trace (s : State) (v : Nat) : (s.setTxH v).trace = s.trace := rfl
@[simp] theorem setTxH_sched (s : State) (v : Nat) : (s.setTxH v).sched = s.sched := rfl
@[simp] theorem setTxH_pastRxT (s : State) (v : Nat) : (s.setTxH v).pastRxT = s.pastRxT := rfl
@[simp] theorem setTxH_pastRxH (s : State) (v : Nat) : (s.setTxH v).pastRxH = s.pastRxH := rfl
@[simp] theorem setTxH_pastTxT (s : State) (v : Nat) : (s.setTxH v).pastTxT = s.pastTxT := rfl
@[simp] theorem setTxH_pastTxH (s : State) (v : Nat) : (s.setTxH v).pastTxH = remember s s.pastTxH s.txh := rfl
@[simp] theorem setTxH_epoch (s : State) (v : Nat) : (s.setTxH v).epoch = s.epoch := rfl
@[simp] theorem setTxH_draws (s : State) (v : Nat) : (s.setTxH v).draws = s.draws := rfl

/-! ### `setTxT`: the index `txt` is written -/

@[simp] theorem setTxT_cfg (s : State) (v : Nat) : (s.setTxT v).cfg = s.cfg := rfl
@[simp] theorem setTxT_up (s : State) (v : Nat) : (s.setTxT v).up = s.up := rfl
@[simp] theorem setTxT_rxbuf (s : State) (v : Nat) : (s.setTxT v).rxbuf = s.rxbuf := rfl
@[simp] theorem setTxT_rxh (s : State) (v : Nat) : (s.setTxT v).rxh = s.rxh := rfl
@[simp] theorem setTxT_rxt (s : State) (v : Nat) : (s.setTxT v).rxt = s.rxt := rfl
@[simp] theorem setTxT_txbuf (s : State) (v : Nat) : (s.setTxT v).txbuf = s.txbuf := rfl
@[simp] theorem setTxT_txh (s : State) (v : Nat) : (s.setTxT v).txh = s.txh := rfl
@[simp] theorem setTxT_txt (s : State) (v : Nat) : (s.setTxT v).txt = v := rfl
@[simp] theorem setTxT_txie (s : State) (v : Nat) : (s.setTxT v).txie = s.txie := rfl
@[simp] theorem setTxT_kc (s : State) (v : Nat) : (s.setTxT v).kc = s.kc := rfl
@[simp] theorem setTxT_klen (s : State) (v : Nat) : (s.setTxT v).klen = s.klen := rfl
@[simp] theorem setTxT_kvalid (s : State) (v : Nat) : (s.setTxT v).kvalid = s.kvalid := rfl
@[simp] theorem setTxT_main (s : State) (v : Nat) : (s.setTxT v).main = s.main := rfl
@[simp] theorem setTxT_line (s : State) (v : Nat) : (s.setTxT v).line = s.line := rfl
@[simp] theorem setTxT_abort (s : State) (v : Nat) : (s.setTxT v).abort = s.abort := rfl
@[simp] theorem setTxT_wireOut (s : State) (v : Nat) : (s.setTxT v).wireOut = s.wireOut := rfl
@[simp] theorem setTxT_wireIn (s : State) (v : Nat) : (s.setTxT v).wireIn = s.wireIn := rfl
@[simp] theorem setTxT_rsp (s : State) (v : Nat) : (s.setTxT v).rsp = s.rsp := rfl
@[simp] theorem setTxT_marked (s : State) (v : Nat) : (s.setTxT v).marked = s.marked := rfl
@[simp] theorem setTxT_trace (s : State) (v : Nat) : (s.setTxT v).trace = s.trace := rfl
@[simp] theorem setTxT_sched (s : State) (v : Nat) : (s.setTxT v).sched = s.sched := rfl
@[simp] theorem setTxT_pastRxT (s : State) (v : Nat) : (s.setTxT v).pastRxT = s.pastRxT := rfl
@[simp] theorem setTxT_pastRxH (s : State) (v : Nat) : (s.setTxT v).pastRxH = s.pastRxH := rfl
@[simp] theorem setTxT_pastTxT (s : State) (v : Nat) : (s.setTxT v).pastTxT = remember s s.pastTxT s.txt := rfl
@[simp] theorem setTxT_pastTxH (s : State) (v : Nat) : (s.setTxT v).pastTxH = s.pastTxH := rfl
@[simp] theorem setTxT_epoch (s : State) (v : Nat) : (s.setTxT v).epoch = s.epoch := rfl
@[simp] theorem setTxT_draws (s : State) (v : Nat) : (s.setTxT v).draws = s.draws := rfl

/-! ### `setRxH`: the index `rxh` is written -/

@[simp] theorem setRxH_cfg (s : State) (v : Nat) : (s.setRxH v).cfg = s.cfg := rfl
@[simp] theorem setRxH_up (s : State) (v : Nat) : (s.setRxH v).up = s.up := rfl
@[simp] theorem setRxH_rxbuf (s : State) (v : Nat) : (s.setRxH v).rxbuf = s.rxbuf := rfl
@[simp] theorem setRxH_rxh (s : State) (v : Nat) : (s.setRxH v).rxh = v := rfl
@[simp] theorem setRxH_rxt (s : State) (v : Nat) : (s.setRxH v).rxt = s.rxt := rfl
@[simp] theorem setRxH_txbuf (s : State) (v : Nat) : (s.setRxH v).txbuf = s.txbuf := rfl
@[simp] theorem setRxH_txh (s : State) (v : Nat) : (s.setRxH v).txh = s.txh := rfl
@[simp] theorem setRxH_txt (s : State) (v : Nat) : (s.setRxH v).txt = s.txt := rfl
@[simp] theorem setRxH_txie (s : State) (v : Nat) : (s.setRxH v).txie = s.txie := rfl
@[simp] theorem setRxH_kc (s : State) (v : Nat) : (s.setRxH v).kc = s.kc := rfl
@[simp] theorem setRxH_klen (s : State) (v : Nat) : (s.setRxH v).klen = s.klen := rfl
@[simp] theorem setRxH_kvalid (s : State) (v : Nat) : (s.setRxH v).kvalid = s.kvalid := rfl
@[simp] theorem setRxH_main (s : State) (v : Nat) : (s.setRxH v).main = s.main := rfl
@[simp] theorem setRxH_line (s : State) (v : Nat) : (s.setRxH v).line = s.line := rfl
@[simp] theorem setRxH_abort (s : State) (v : Nat) : (s.setRxH v).abort = s.abort := rfl
@[simp] theorem setRxH_wireOut (s : State) (v : Nat) : (s.setRxH v).wireOut = s.wireOut := rfl
@[simp] theorem setRxH_wireIn (s : State) (v : Nat) : (s.setRxH v).wireIn = s.wireIn := rfl
@[simp] theorem setRxH_rsp (s : State) (v : Nat) : (s.setRxH v).rsp = s.rsp := rfl
@[simp] theorem setRxH_marked (s : State) (v : Nat) : (s.setRxH v).marked = s.marked := rfl
@[simp] theorem setRxH_trace (s : State) (v : Nat) : (s.setRxH v).trace = s.trace := rfl
@[simp] theorem setRxH_sched (s : State) (v : Nat) : (s.setRxH v).sched = s.sched := rfl
@[simp] theorem setRxH_pastRxT (s : State) (v : Nat) : (s.setRxH v).pastRxT = s.pastRxT := rfl
@[simp] theorem setRxH_pastRxH (s : State) (v : Nat) : (s.setRxH v).pastRxH = remember s s.pastRxH s.rxh := rfl
@[simp] theorem setRxH_pastTxT (s : State) (v : Nat) : (s.setRxH v).pastTxT = s.pastTxT := rfl
@[simp] theorem setRxH_pastTxH (s : State) (v : Nat) : (s.setRxH v).pastTxH = s.pastTxH := rfl
@[simp] theorem setRxH_epoch (s : State) (v : Nat) : (s.setRxH v).epoch = s.epoch := rfl
@[simp] theorem setRxH_draws (s : State) (v : Nat) : (s.setRxH v).draws = s.draws := rfl

/-! ### `setRxT`: the index `rxt` is written -/

@[simp] theorem setRxT_cfg (s : State) (v : Nat) : (s.setRxT v).cfg = s.cfg := rfl
@[simp] theorem setRxT_up (s : State) (v : Nat) : (s.setRxT v).up = s.up := rfl
@[simp] theorem setRxT_rxbuf (s : State) (v : Nat) : (s.setRxT v).rxbuf = s.rxbuf := rfl
@[simp] theorem setRxT_rxh (s : State) (v : Nat) : (s.setRxT v).rxh = s.rxh := rfl
@[simp] theorem setRxT_rxt (s : State) (v : Nat) : (s.setRxT v).rxt = v := rfl
@[simp] theorem setRxT_txbuf (s : State) (v : Nat) : (s.setRxT v).txbuf = s.txbuf := rfl
@[simp] theorem setRxT_txh (s : State) (v : Nat) : (s.setRxT v).txh = s.txh := rfl
@[simp] theorem setRxT_txt (s : State) (v : Nat) : (s.setRxT v).txt = s.txt := rfl
@[simp] theorem setRxT_txie (s : State) (v : Nat) : (s.setRxT v).txie = s.txie := rfl
@[simp] theorem setRxT_kc (s : State) (v : Nat) : (s.setRxT v).kc = s.kc := rfl
@[simp] theorem setRxT_klen (s : State) (v : Nat) : (s.setRxT v).klen = s.klen := rfl
@[simp] theorem setRxT_kvalid (s : State) (v : Nat) : (s.setRxT v).kvalid = s.kvalid := rfl
@[simp] theorem setRxT_main (s : State) (v : Nat) : (s.setRxT v).main = s.main := rfl
@[simp] theorem setRxT_line (s : State) (v : Nat) : (s.setRxT v).line = s.line := rfl
@[simp] theorem setRxT_abort (s : State) (v : Nat) : (s.setRxT v).abort = s.abort := rfl
@[simp] theorem setRxT_wireOut (s : State) (v : Nat) : (s.setRxT v).wireOut = s.wireOut := rfl
@[simp] theorem setRxT_wireIn (s : State) (v : Nat) : (s.setRxT v).wireIn = s.wireIn := rfl
@[simp] theorem setRxT_rsp (s : State) (v : Nat) : (s.setRxT v).rsp = s.rsp := rfl
@[simp] theorem setRxT_marked (s : State) (v : Nat) : (s.setRxT v).marked = s.marked := rfl
@[simp] theorem setRxT_trace (s : State) (v : Nat) : (s.setRxT v).trace = s.trace := rfl
@[simp] theorem setRxT_sched (s : State) (v : Nat) : (s.setRxT v).sched = s.sched := rfl
@[simp] theorem setRxT_pastRxT (s : State) (v : Nat) : (s.setRxT v).pastRxT = remember s s.pastRxT s.rxt := rfl
@[simp] theorem setRxT_pastRxH (s : State) (v : Nat) : (s.setRxT v).pastRxH = s.pastRxH := rfl
@[simp] theorem setRxT_pastTxT (s : State) (v : Nat) : (s.setRxT v).pastTxT = s.pastTxT := rfl
@[simp] theorem setRxT_pastTxH (s : State) (v : Nat) : (s.setRxT v).pastTxH = s.pastTxH := rfl
@[simp] theorem setRxT_epoch (s : State) (v : Nat) : (s.setRxT v).epoch = s.epoch := rfl
@[simp] theorem setRxT_draws (s : State) (v : Nat) : (s.setRxT v).draws = s.draws := rfl

/-! ### `txTailRead`: a cross-side read changes only what stays readable -/

@[simp] theorem txTailRead_cfg (s : State) : (s.txTailRead).cfg = s.cfg := by
  unfold State.txTailRead; split <;> rfl
@[simp] theorem txTailRead_up (s : State) : (s.txTailRead).up = s.up := by
  unfold State.txTailRead; split <;> rfl
@[simp] theorem txTailRead_rxbuf (s : State) : (s.txTailRead).rxbuf = s.rxbuf := by
  unfold State.txTailRead; split <;> rfl
@[simp] theorem txTailRead_rxh (s : State) : (s.txTailRead).rxh = s.rxh := by
  unfold State.txTailRead; split <;> rfl
@[simp] theorem txTailRead_rxt (s : State) : (s.txTailRead).rxt = s.rxt := by
  unfold State.txTailRead; split <;> rfl
@[simp] theorem txTailRead_txbuf (s : State) : (s.txTailRead).txbuf = s.txbuf := by
  unfold State.txTailRead; split <;> rfl
@[simp] theorem txTailRead_txh (s : State) : (s.txTailRead).txh = s.txh := by
  unfold State.txTailRead; split <;> rfl
@[simp] theorem txTailRead_txt (s : State) : (s.txTailRead).txt = s.txt := by
  unfold State.txTailRead; split <;> rfl
@[simp] theorem txTailRead_txie (s : State) : (s.txTailRead).txie = s.txie := by
  unfold State.txTailRead; split <;> rfl
@[simp] theorem txTailRead_kc (s : State) : (s.txTailRead).kc = s.kc := by
  unfold State.txTailRead; split <;> rfl
@[simp] theorem txTailRead_klen (s : State) : (s.txTailRead).klen = s.klen := by
  unfold State.txTailRead; split <;> rfl
@[simp] theorem txTailRead_kvalid (s : State) : (s.txTailRead).kvalid = s.kvalid := by
  unfold State.txTailRead; split <;> rfl
@[simp] theorem txTailRead_main (s : State) : (s.txTailRead).main = s.main := by
  unfold State.txTailRead; split <;> rfl
@[simp] theorem txTailRead_line (s : State) : (s.txTailRead).line = s.line := by
  unfold State.txTailRead; split <;> rfl
@[simp] theorem txTailRead_abort (s : State) : (s.txTailRead).abort = s.abort := by
  unfold State.txTailRead; split <;> rfl
@[simp] theorem txTailRead_wireOut (s : State) : (s.txTailRead).wireOut = s.wireOut := by
  unfold State.txTailRead; split <;> rfl
@[simp] theorem txTailRead_wireIn (s : State) : (s.txTailRead).wireIn = s.wireIn := by
  unfold State.txTailRead; split <;> rfl
@[simp] theorem txTailRead_rsp (s : State) : (s.txTailRead).rsp = s.rsp := by
  unfold State.txTailRead; split <;> rfl
@[simp] theorem txTailRead_marked (s : State) : (s.txTailRead).marked = s.marked := by
  unfold State.txTailRead; split <;> rfl
@[simp] theorem txTailRead_trace (s : State) : (s.txTailRead).trace = s.trace := by
  unfold State.txTailRead; split <;> rfl
@[simp] theorem txTailRead_sched (s : State) : (s.txTailRead).sched = s.sched := by
  unfold State.txTailRead; split <;> rfl
@[simp] theorem txTailRead_pastRxT (s : State) : (s.txTailRead).pastRxT = s.pastRxT := by
  unfold State.txTailRead; split <;> rfl
@[simp] theorem txTailRead_pastRxH (s : State) : (s.txTailRead).pastRxH = s.pastRxH := by
  unfold State.txTailRead; split <;> rfl
@[simp] theorem txTailRead_pastTxH (s : State) : (s.txTailRead).pastTxH = s.pastTxH := by
  unfold State.txTailRead; split <;> rfl
@[simp] theorem txTailRead_epoch (s : State) : (s.txTailRead).epoch = s.epoch := by
  unfold State.txTailRead; split <;> rfl

theorem txTailRead_exact {s : State} (h : s.cfg.xsideView = .exact) : s.txTailRead = s := by
  simp [State.txTailRead, h]

theorem txTailRead_past_mem {s : State} {v : Nat} (h : v ∈ s.txTailRead.pastTxT) : v ∈ s.pastTxT := by
  unfold State.txTailRead at h; split at h
  · exact h
  · simp at h

/-! ### `txHeadRead`: a cross-side read changes only what stays readable -/

@[simp] theorem txHeadRead_cfg (s : State) : (s.txHeadRead).cfg = s.cfg := by
  unfold State.txHeadRead; split <;> rfl
@[simp] theorem txHeadRead_up (s : State) : (s.txHeadRead).up = s.up := by
  unfold State.txHeadRead; split <;> rfl
@[simp] theorem txHeadRead_rxbuf (s : State) : (s.txHeadRead).rxbuf = s.rxbuf := by
  unfold State.txHeadRead; split <;> rfl
@[simp] theorem txHeadRead_rxh (s : State) : (s.txHeadRead).rxh = s.rxh := by
  unfold State.txHeadRead; split <;> rfl
@[simp] theorem txHeadRead_rxt (s : State) : (s.txHeadRead).rxt = s.rxt := by
  unfold State.txHeadRead; split <;> rfl
@[simp] theorem txHeadRead_txbuf (s : State) : (s.txHeadRead).txbuf = s.txbuf := by
  unfold State.txHeadRead; split <;> rfl
@[simp] theorem txHeadRead_txh (s : State) : (s.txHeadRead).txh = s.txh := by
  unfold State.txHeadRead; split <;> rfl
@[simp] theorem txHeadRead_txt (s : State) : (s.txHeadRead).txt = s.txt := by
  unfold State.txHeadRead; split <;> rfl
@[simp] theorem txHeadRead_txie (s : State) : (s.txHeadRead).txie = s.txie := by
  unfold State.txHeadRead; split <;> rfl
@[simp] theorem txHeadRead_kc (s : State) : (s.txHeadRead).kc = s.kc := by
  unfold State.txHeadRead; split <;> rfl
@[simp] theorem txHeadRead_klen (s : State) : (s.txHeadRead).klen = s.klen := by
  unfold State.txHeadRead; split <;> rfl
@[simp] theorem txHeadRead_kvalid (s : State) : (s.txHeadRead).kvalid = s.kvalid := by
  unfold State.txHeadRead; split <;> rfl
@[simp] theorem txHeadRead_main (s : State) : (s.txHeadRead).main = s.main := by
  unfold State.txHeadRead; split <;> rfl
@[simp] theorem txHeadRead_line (s : State) : (s.txHeadRead).line = s.line := by
  unfold State.txHeadRead; split <;> rfl
@[simp] theorem txHeadRead_abort (s : State) : (s.txHeadRead).abort = s.abort := by
  unfold State.txHeadRead; split <;> rfl
@[simp] theorem txHeadRead_wireOut (s : State) : (s.txHeadRead).wireOut = s.wireOut := by
  unfold State.txHeadRead; split <;> rfl
@[simp] theorem txHeadRead_wireIn (s : State) : (s.txHeadRead).wireIn = s.wireIn := by
  unfold State.txHeadRead; split <;> rfl
@[simp] theorem txHeadRead_rsp (s : State) : (s.txHeadRead).rsp = s.rsp := by
  unfold State.txHeadRead; split <;> rfl
@[simp] theorem txHeadRead_marked (s : State) : (s.txHeadRead).marked = s.marked := by
  unfold State.txHeadRead; split <;> rfl
@[simp] theorem txHeadRead_trace (s : State) : (s.txHeadRead).trace = s.trace := by
  unfold State.txHeadRead; split <;> rfl
@[simp] theorem txHeadRead_sched (s : State) : (s.txHeadRead).sched = s.sched := by
  unfold State.txHeadRead; split <;> rfl
@[simp] theorem txHeadRead_pastRxT (s : State) : (s.txHeadRead).pastRxT = s.pastRxT := by
  unfold State.txHeadRead; split <;> rfl
@[simp] theorem txHeadRead_pastRxH (s : State) : (s.txHeadRead).pastRxH = s.pastRxH := by
  unfold State.txHeadRead; split <;> rfl
@[simp] theorem txHeadRead_pastTxT (s : State) : (s.txHeadRead).pastTxT = s.pastTxT := by
  unfold State.txHeadRead; split <;> rfl
@[simp] theorem txHeadRead_epoch (s : State) : (s.txHeadRead).epoch = s.epoch := by
  unfold State.txHeadRead; split <;> rfl

theorem txHeadRead_exact {s : State} (h : s.cfg.xsideView = .exact) : s.txHeadRead = s := by
  simp [State.txHeadRead, h]

theorem txHeadRead_past_mem {s : State} {v : Nat} (h : v ∈ s.txHeadRead.pastTxH) : v ∈ s.pastTxH := by
  unfold State.txHeadRead at h; split at h
  · exact h
  · simp at h

/-! ### `rxTailRead`: a cross-side read changes only what stays readable -/

@[simp] theorem rxTailRead_cfg (s : State) : (s.rxTailRead).cfg = s.cfg := by
  unfold State.rxTailRead; split <;> rfl
@[simp] theorem rxTailRead_up (s : State) : (s.rxTailRead).up = s.up := by
  unfold State.rxTailRead; split <;> rfl
@[simp] theorem rxTailRead_rxbuf (s : State) : (s.rxTailRead).rxbuf = s.rxbuf := by
  unfold State.rxTailRead; split <;> rfl
@[simp] theorem rxTailRead_rxh (s : State) : (s.rxTailRead).rxh = s.rxh := by
  unfold State.rxTailRead; split <;> rfl
@[simp] theorem rxTailRead_rxt (s : State) : (s.rxTailRead).rxt = s.rxt := by
  unfold State.rxTailRead; split <;> rfl
@[simp] theorem rxTailRead_txbuf (s : State) : (s.rxTailRead).txbuf = s.txbuf := by
  unfold State.rxTailRead; split <;> rfl
@[simp] theorem rxTailRead_txh (s : State) : (s.rxTailRead).txh = s.txh := by
  unfold State.rxTailRead; split <;> rfl
@[simp] theorem rxTailRead_txt (s : State) : (s.rxTailRead).txt = s.txt := by
  unfold State.rxTailRead; split <;> rfl
@[simp] theorem rxTailRead_txie (s : State) : (s.rxTailRead).txie = s.txie := by
  unfold State.rxTailRead; split <;> rfl
@[simp] theorem rxTailRead_kc (s : State) : (s.rxTailRead).kc = s.kc := by
  unfold State.rxTailRead; split <;> rfl
@[simp] theorem rxTailRead_klen (s : State) : (s.rxTailRead).klen = s.klen := by
  unfold State.rxTailRead; split <;> rfl
@[simp] theorem rxTailRead_kvalid (s : State) : (s.rxTailRead).kvalid = s.kvalid := by
  unfold State.rxTailRead; split <;> rfl
@[simp] theorem rxTailRead_main (s : State) : (s.rxTailRead).main = s.main := by
  unfold State.rxTailRead; split <;> rfl
@[simp] theorem rxTailRead_line (s : State) : (s.rxTailRead).line = s.line := by
  unfold State.rxTailRead; split <;> rfl
@[simp] theorem rxTailRead_abort (s : State) : (s.rxTailRead).abort = s.abort := by
  unfold State.rxTailRead; split <;> rfl
@[simp] theorem rxTailRead_wireOut (s : State) : (s.rxTailRead).wireOut = s.wireOut := by
  unfold State.rxTailRead; split <;> rfl
@[simp] theorem rxTailRead_wireIn (s : State) : (s.rxTailRead).wireIn = s.wireIn := by
  unfold State.rxTailRead; split <;> rfl
@[simp] theorem rxTailRead_rsp (s : State) : (s.rxTailRead).rsp = s.rsp := by
  unfold State.rxTailRead; split <;> rfl
@[simp] theorem rxTailRead_marked (s : State) : (s.rxTailRead).marked = s.marked := by
  unfold State.rxTailRead; split <;> rfl
@[simp] theorem rxTailRead_trace (s : State) : (s.rxTailRead).trace = s.trace := by
  unfold State.rxTailRead; split <;> rfl
@[simp] theorem rxTailRead_sched (s : State) : (s.rxTailRead).sched = s.sched := by
  unfold State.rxTailRead; split <;> rfl
@[simp] theorem rxTailRead_pastRxH (s : State) : (s.rxTailRead).pastRxH = s.pastRxH := by
  unfold State.rxTailRead; split <;> rfl
@[simp] theorem rxTailRead_pastTxT (s : State) : (s.rxTailRead).pastTxT = s.pastTxT := by
  unfold State.rxTailRead; split <;> rfl
@[simp] theorem rxTailRead_pastTxH (s : State) : (s.rxTailRead).pastTxH = s.pastTxH := by
  unfold State.rxTailRead; split <;> rfl
@[simp] theorem rxTailRead_epoch (s : State) : (s.rxTailRead).epoch = s.epoch := by
  unfold State.rxTailRead; split <;> rfl

theorem rxTailRead_exact {s : State} (h : s.cfg.xsideView = .exact) : s.rxTailRead = s := by
  simp [State.rxTailRead, h]

theorem rxTailRead_past_mem {s : State} {v : Nat} (h : v ∈ s.rxTailRead.pastRxT) : v ∈ s.pastRxT := by
  unfold State.rxTailRead at h; split at h
  · exact h
  · simp at h

/-! ### `rxHeadRead`: a cross-side read changes only what stays readable -/

@[simp] theorem rxHeadRead_cfg (s : State) : (s.rxHeadRead).cfg = s.cfg := by
  unfold State.rxHeadRead; split <;> rfl
@[simp] theorem rxHeadRead_up (s : State) : (s.rxHeadRead).up = s.up := by
  unfold State.rxHeadRead; split <;> rfl
@[simp] theorem rxHeadRead_rxbuf (s : State) : (s.rxHeadRead).rxbuf = s.rxbuf := by
  unfold State.rxHeadRead; split <;> rfl
@[simp] theorem rxHeadRead_rxh (s : State) : (s.rxHeadRead).rxh = s.rxh := by
  unfold State.rxHeadRead; split <;> rfl
@[simp] theorem rxHeadRead_rxt (s : State) : (s.rxHeadRead).rxt = s.rxt := by
  unfold State.rxHeadRead; split <;> rfl
@[simp] theorem rxHeadRead_txbuf (s : State) : (s.rxHeadRead).txbuf = s.txbuf := by
  unfold State.rxHeadRead; split <;> rfl
@[simp] theorem rxHeadRead_txh (s : State) : (s.rxHeadRead).txh = s.txh := by
  unfold State.rxHeadRead; split <;> rfl
@[simp] theorem rxHeadRead_txt (s : State) : (s.rxHeadRead).txt = s.txt := by
  unfold State.rxHeadRead; split <;> rfl
@[simp] theorem rxHeadRead_txie (s : State) : (s.rxHeadRead).txie = s.txie := by
  unfold State.rxHeadRead; split <;> rfl
@[simp] theorem rxHeadRead_kc (s : State) : (s.rxHeadRead).kc = s.kc := by
  unfold State.rxHeadRead; split <;> rfl
@[simp] theorem rxHeadRead_klen (s : State) : (s.rxHeadRead).klen = s.klen := by
  unfold State.rxHeadRead; split <;> rfl
@[simp] theorem rxHeadRead_kvalid (s : State) : (s.rxHeadRead).kvalid = s.kvalid := by
  unfold State.rxHeadRead; split <;> rfl
@[simp] theorem rxHeadRead_main (s : State) : (s.rxHeadRead).main = s.main := by
  unfold State.rxHeadRead; split <;> rfl
@[simp] theorem rxHeadRead_line (s : State) : (s.rxHeadRead).line = s.line := by
  unfold State.rxHeadRead; split <;> rfl
@[simp] theorem rxHeadRead_abort (s : State) : (s.rxHeadRead).abort = s.abort := by
  unfold State.rxHeadRead; split <;> rfl
@[simp] theorem rxHeadRead_wireOut (s : State) : (s.rxHeadRead).wireOut = s.wireOut := by
  unfold State.rxHeadRead; split <;> rfl
@[simp] theorem rxHeadRead_wireIn (s : State) : (s.rxHeadRead).wireIn = s.wireIn := by
  unfold State.rxHeadRead; split <;> rfl
@[simp] theorem rxHeadRead_rsp (s : State) : (s.rxHeadRead).rsp = s.rsp := by
  unfold State.rxHeadRead; split <;> rfl
@[simp] theorem rxHeadRead_marked (s : State) : (s.rxHeadRead).marked = s.marked := by
  unfold State.rxHeadRead; split <;> rfl
@[simp] theorem rxHeadRead_trace (s : State) : (s.rxHeadRead).trace = s.trace := by
  unfold State.rxHeadRead; split <;> rfl
@[simp] theorem rxHeadRead_sched (s : State) : (s.rxHeadRead).sched = s.sched := by
  unfold State.rxHeadRead; split <;> rfl
@[simp] theorem rxHeadRead_pastRxT (s : State) : (s.rxHeadRead).pastRxT = s.pastRxT := by
  unfold State.rxHeadRead; split <;> rfl
@[simp] theorem rxHeadRead_pastTxT (s : State) : (s.rxHeadRead).pastTxT = s.pastTxT := by
  unfold State.rxHeadRead; split <;> rfl
@[simp] theorem rxHeadRead_pastTxH (s : State) : (s.rxHeadRead).pastTxH = s.pastTxH := by
  unfold State.rxHeadRead; split <;> rfl
@[simp] theorem rxHeadRead_epoch (s : State) : (s.rxHeadRead).epoch = s.epoch := by
  unfold State.rxHeadRead; split <;> rfl

theorem rxHeadRead_exact {s : State} (h : s.cfg.xsideView = .exact) : s.rxHeadRead = s := by
  simp [State.rxHeadRead, h]

theorem rxHeadRead_past_mem {s : State} {v : Nat} (h : v ∈ s.rxHeadRead.pastRxH) : v ∈ s.pastRxH := by
  unfold State.rxHeadRead at h; split at h
  · exact h
  · simp at h

/-! ### `afterRst`: reset, R50 -/

@[simp] theorem afterRst_cfg (s : State) : (s.afterRst).cfg = s.cfg := rfl
@[simp] theorem afterRst_up (s : State) : (s.afterRst).up = true := rfl
@[simp] theorem afterRst_rxbuf (s : State) : (s.afterRst).rxbuf = [] := rfl
@[simp] theorem afterRst_rxh (s : State) : (s.afterRst).rxh = 0 := rfl
@[simp] theorem afterRst_rxt (s : State) : (s.afterRst).rxt = 0 := rfl
@[simp] theorem afterRst_txbuf (s : State) : (s.afterRst).txbuf = [] := rfl
@[simp] theorem afterRst_txh (s : State) : (s.afterRst).txh = 0 := rfl
@[simp] theorem afterRst_txt (s : State) : (s.afterRst).txt = 0 := rfl
@[simp] theorem afterRst_txie (s : State) : (s.afterRst).txie = false := rfl
@[simp] theorem afterRst_kc (s : State) : (s.afterRst).kc = [] := rfl
@[simp] theorem afterRst_klen (s : State) : (s.afterRst).klen = 0 := rfl
@[simp] theorem afterRst_kvalid (s : State) : (s.afterRst).kvalid = false := rfl
@[simp] theorem afterRst_main (s : State) : (s.afterRst).main = .idle := rfl
@[simp] theorem afterRst_line (s : State) : (s.afterRst).line = .idle := rfl
@[simp] theorem afterRst_abort (s : State) : (s.afterRst).abort = s.abort := rfl
@[simp] theorem afterRst_wireOut (s : State) : (s.afterRst).wireOut = [] := rfl
@[simp] theorem afterRst_wireIn (s : State) : (s.afterRst).wireIn = [] := rfl
@[simp] theorem afterRst_rsp (s : State) : (s.afterRst).rsp = [] := rfl
@[simp] theorem afterRst_marked (s : State) : (s.afterRst).marked = s.marked := rfl
@[simp] theorem afterRst_trace (s : State) : (s.afterRst).trace = s.trace := rfl
@[simp] theorem afterRst_sched (s : State) : (s.afterRst).sched = s.sched := rfl
@[simp] theorem afterRst_pastRxT (s : State) : (s.afterRst).pastRxT = [] := rfl
@[simp] theorem afterRst_pastRxH (s : State) : (s.afterRst).pastRxH = [] := rfl
@[simp] theorem afterRst_pastTxT (s : State) : (s.afterRst).pastTxT = [] := rfl
@[simp] theorem afterRst_pastTxH (s : State) : (s.afterRst).pastTxH = [] := rfl
@[simp] theorem afterRst_epoch (s : State) : (s.afterRst).epoch = s.epoch + 1 := rfl
@[simp] theorem afterRst_draws (s : State) : (s.afterRst).draws = s.draws := rfl

end Sys2Proof.Machine
end

