-- ==== Sys2Proof/Laws/Ops.lean ====
section
/-! SUPPORT. One lemma per shared operation that says once everything it can do. -/

namespace Sys2Proof.Machine

/-! ### Sequencing -/

@[simp] theorem andThen_next {α β : Type} (a : α) (f : α → Result β) : andThen (.next a) f = f a := rfl
@[simp] theorem andThen_fault {α β : Type} (e : Fault) (f : α → Result β) : andThen (.fault e) f = .fault e := rfl
@[simp] theorem andThen_refused {α β : Type} (e : Refusal) (f : α → Result β) : andThen (.refused e) f = .refused e := rfl

/-- A sequence answers a value exactly when both parts do. -/
theorem andThen_eq_next {α β : Type} {o : Result α} {f : α → Result β} {b : β} :
    andThen o f = .next b ↔ ∃ a, o = .next a ∧ f a = .next b := by
  cases o <;> simp [andThen]

/-- A sequence faults where its first part or its second does. -/
theorem andThen_eq_fault {α β : Type} {o : Result α} {f : α → Result β} {e : Fault} :
    andThen o f = .fault e ↔ o = .fault e ∨ ∃ a, o = .next a ∧ f a = .fault e := by
  cases o <;> simp [andThen]

/-! ### Entry into the block -/

/-- A request that answers a state: either it was only taken, the line side being in progress, or its body answered. -/
theorem issue_eq_next {i : Instr} {s t : State} {body : State → Result State} (h : issue i s body = .next t) :
    s.up = true ∧ s.main = .idle ∧
      ((s.line ≠ .idle ∧ t = { s with main := .issued i }) ∨ (s.line = .idle ∧ body s = .next t)) := by
  unfold issue at h
  split at h
  · cases h
  · rename_i hu
    split at h
    · cases h
    · rename_i hm
      split at h
      · rename_i hl; cases h; exact ⟨by simpa using hu, by simpa using hm, .inl ⟨hl, rfl⟩⟩
      · rename_i hl; exact ⟨by simpa using hu, by simpa using hm, .inr ⟨by simpa using hl, h⟩⟩

/-- A request is begun when the main side may begin one. -/
theorem issue_ready {i : Instr} {s : State} {body : State → Result State} (h : Ready s) : issue i s body = body s := by
  obtain ⟨hu, hm, hl⟩ := h
  simp [issue, hu, hm, hl]

/-- A fault of a request is a fault of its body. -/
theorem issue_eq_fault {i : Instr} {s : State} {body : State → Result State} {e : Fault}
    (h : issue i s body = .fault e) : Ready s ∧ body s = .fault e := by
  unfold issue at h
  split at h
  · cases h
  · rename_i hu
    split at h
    · cases h
    · rename_i hm
      split at h
      · cases h
      · rename_i hl; exact ⟨⟨by simpa using hu, by simpa using hm, by simpa using hl⟩, h⟩

/-- An event that answers a state: it was served, or it waits in the environment. -/
theorem serve_eq_next {i : Instr} {s t : State} {body : State → Result State} (h : serve i s body = .next t) :
    s.up = true ∧
      ((mayBegin s i = true ∧ body s = .next t) ∨
        (mayBegin s i = false ∧ t = { s with trace := encode i ++ s.trace })) := by
  unfold serve at h
  split at h
  · cases h
  · rename_i hu
    split at h
    · rename_i hb; exact ⟨by simpa using hu, .inl ⟨hb, h⟩⟩
    · rename_i hb; cases h; exact ⟨by simpa using hu, .inr ⟨by simpa using hb, rfl⟩⟩

/-- An event is served when no line-side operation is in progress. -/
theorem serve_ready {i : Instr} {s : State} {body : State → Result State} (h : LineReady s) :
    serve i s body = body s := by
  obtain ⟨hu, hl⟩ := h
  simp [serve, mayBegin, hu, hl]

/-- A fault of an event is a fault of its body. -/
theorem serve_eq_fault {i : Instr} {s : State} {body : State → Result State} {e : Fault}
    (h : serve i s body = .fault e) : body s = .fault e := by
  unfold serve at h
  split at h
  · cases h
  · split at h
    · exact h
    · cases h

/-! ### What one side sees of the other's index -/

@[simp] theorem seenIndex_exact {s : State} (h : s.cfg.xsideView = .exact) (past : List Nat) (cur : Nat) :
    seenIndex s past cur = cur := by simp [seenIndex, h]

/-- What is seen is the present value or one of those that stay readable (R72). -/
theorem seenIndex_mem (s : State) (past : List Nat) (cur : Nat) : seenIndex s past cur ∈ past ++ [cur] := by
  unfold seenIndex
  split
  · simp
  · have hlt : Config.staleChoice s.draws % (past.length + 1) < (past ++ [cur]).length := by
      simpa using Nat.mod_lt _ (Nat.succ_pos past.length)
    rw [List.getD_eq_getElem _ _ hlt]
    exact List.getElem_mem hlt

/-- What is seen is in the range of the ring. -/
theorem seenIndex_lt {s : State} {past : List Nat} {cur n : Nat} (hp : ∀ v ∈ past, v < n) (hc : cur < n) :
    seenIndex s past cur < n := by
  have := seenIndex_mem s past cur
  rcases List.mem_append.1 this with h | h
  · exact hp _ h
  · simp at h; omega

/-- The values that stay readable after a write: those before, and the one overwritten. -/
theorem mem_remember {s : State} {past : List Nat} {old v : Nat} (h : v ∈ remember s past old) : v ∈ past ∨ v = old := by
  unfold remember at h
  split at h
  · exact .inl h
  · simpa using h

/-- With the exact view a TX producer may read the present tail only. -/
@[simp] theorem txTailReadable_exact {s : State} (h : s.cfg.xsideView = .exact) : s.txTailReadable = [s.txt] := by
  simp [State.txTailReadable, h]

/-- The tail a TX producer reads is one it may read (R72). -/
theorem txTailSeen_mem_readable (s : State) : s.txTailSeen ∈ s.txTailReadable := by
  cases h : s.cfg.xsideView
  · simp [State.txTailSeen, State.txTailReadable, h]
  · simpa [State.txTailSeen, State.txTailReadable, h] using seenIndex_mem s s.pastTxT s.txt

/-- When a TXW in flight is in its wait step (R121, R123). -/
theorem waits_iff (s : State) (c : TxwCtx) :
    c.waits s = true ↔ s.abort = false ∧
      ((c.stage = .wait ∧ ∃ t ∈ s.txTailReadable, ringFull s.txh t s.cfg.txCap = true) ∨
        ∃ wh wn, c.stage = .w2 wh wn ∧ wn ∈ s.txTailReadable) := by
  obtain ⟨b, stage⟩ := c
  cases stage <;> simp [TxwCtx.waits]

/-- Which line event may begin, by what the line side does (R70 item 2, R71). -/
theorem mayBegin_iff (s : State) (i : Instr) :
    mayBegin s i = true ↔ s.line = .idle ∨
      ∃ c x, s.line = .resend c ∧ s.cfg.lineNesting = true ∧ i = .txpop ∧ c.tx = some x ∧ x.waits s = true := by
  unfold mayBegin
  cases h : s.line with
  | idle => simp
  | resend c =>
    cases hx : c.tx <;> simp [ResendCtx.waiting, hx, and_assoc]

/-! ### The TX side -/

/-- The state after TXW.commit of `b` (R122). -/
def State.committed (s : State) (b : Byte) : State :=
  { (s.setTxH (nextSlot s.txh s.cfg.txCap)) with txbuf := Mem.write s.txbuf s.txh b, txie := true }

/-- A commit answers exactly when the head is in range. -/
theorem txwCommit_next {b : Byte} {s : State} (h : s.txh < s.cfg.txCap) :
    txwCommit b s = .next (.done .ok, s.committed b) := by
  unfold txwCommit
  rw [writeCell_next (by simpa using h)]
  rfl

/-- Everything a TXW step can do (R121 to R123). -/
theorem txwStep_eq_next {c : TxwCtx} {s t : State} {r : TxwResult} (h : txwStep c s = .next (r, t)) :
    (c.stage = .wait ∧ ringFull s.txh s.txTailSeen s.cfg.txCap = true ∧ s.abort = true ∧
        r = .done .aborted ∧ t = s.txTailRead) ∨
    (c.stage = .wait ∧ ringFull s.txh s.txTailSeen s.cfg.txCap = true ∧ s.abort = false ∧
        r = .going c true ∧ t = s.txTailRead) ∨
    (c.stage = .wait ∧ ringFull s.txh s.txTailSeen s.cfg.txCap = false ∧ s.txh < s.cfg.txCap ∧
        r = .done .ok ∧ t = s.txTailRead.committed c.b) ∨
    (∃ wh wn, c.stage = .w2 wh wn ∧ wn = s.txTailSeen ∧ s.abort = true ∧ r = .done .aborted ∧ t = s.txTailRead) ∨
    (∃ wh wn, c.stage = .w2 wh wn ∧ wn = s.txTailSeen ∧ s.abort = false ∧ r = .going c true ∧ t = s.txTailRead) ∨
    (∃ wh wn, c.stage = .w2 wh wn ∧ wn ≠ s.txTailSeen ∧ r = .going ⟨c.b, .w3 wh wn⟩ false ∧ t = s.txTailRead) ∨
    (∃ wh wn, c.stage = .w3 wh wn ∧ wh < s.cfg.txCap ∧ r = .going ⟨c.b, .w4 wh wn⟩ false ∧
        t = { s with txbuf := Mem.write s.txbuf wh c.b }) ∨
    (∃ wh wn, c.stage = .w4 wh wn ∧ r = .going ⟨c.b, .w5 wh wn⟩ false ∧ t = s.setTxH wn) ∨
    (∃ wh wn, c.stage = .w5 wh wn ∧ r = .done .ok ∧ t = { s with txie := true }) := by
  unfold txwStep at h
  split at h
  · rename_i hs
    split at h
    · rename_i hf
      split at h
      · rename_i ha; cases h; exact .inl ⟨hs, hf, ha, rfl, rfl⟩
      · rename_i ha; cases h; exact .inr (.inl ⟨hs, hf, by simpa using ha, rfl, rfl⟩)
    · rename_i hf
      unfold txwCommit at h
      obtain ⟨m, hm, ht⟩ := andThen_eq_next.1 h
      obtain ⟨hi, rfl⟩ := writeCell_eq_next hm
      cases ht
      exact .inr (.inr (.inl ⟨hs, by simpa using hf, by simpa using hi, rfl, rfl⟩))
  · rename_i wh wn hs
    split at h
    · rename_i hw
      split at h
      · rename_i ha; cases h; exact .inr (.inr (.inr (.inl ⟨wh, wn, hs, hw, ha, rfl, rfl⟩)))
      · rename_i ha; cases h
        exact .inr (.inr (.inr (.inr (.inl ⟨wh, wn, hs, hw, by simpa using ha, rfl, rfl⟩))))
    · rename_i hw; cases h
      exact .inr (.inr (.inr (.inr (.inr (.inl ⟨wh, wn, hs, hw, rfl, rfl⟩)))))
  · rename_i wh wn hs
    obtain ⟨m, hm, ht⟩ := andThen_eq_next.1 h
    obtain ⟨hi, rfl⟩ := writeCell_eq_next hm
    cases ht
    exact .inr (.inr (.inr (.inr (.inr (.inr (.inl ⟨wh, wn, hs, by simpa using hi, rfl, rfl⟩))))))
  · rename_i wh wn hs
    cases h
    exact .inr (.inr (.inr (.inr (.inr (.inr (.inr (.inl ⟨wh, wn, hs, rfl, rfl⟩)))))))
  · rename_i wh wn hs
    cases h
    exact .inr (.inr (.inr (.inr (.inr (.inr (.inr (.inr ⟨wh, wn, hs, rfl, rfl⟩)))))))

/-- The first step of a TXW: W1, or with the one-step commit the step of TXW.wait, TXW.abort and TXW.commit. -/
theorem txwFirst_eq (b : Byte) (s : State) :
    (s.cfg.txwSplitCommit = true ∧
        txwFirst b s = .next (.going ⟨b, .w2 s.txh (nextSlot s.txh s.cfg.txCap)⟩ false, s)) ∨
      (s.cfg.txwSplitCommit = false ∧ txwFirst b s = txwStep ⟨b, .wait⟩ s) := by
  unfold txwFirst
  cases h : s.cfg.txwSplitCommit <;> simp

/-- Everything a pop of the TX ring can do (R126, R127). -/
theorem popTx_eq_next {s t : State} (h : popTx s = .next t) :
    (s.txHeadSeen = s.txt ∧ t = { s.txHeadRead with txie := false }) ∨
    (s.txHeadSeen ≠ s.txt ∧ s.txt < s.cfg.txCap ∧
      t = { (s.txHeadRead.setTxT (nextSlot s.txt s.cfg.txCap)) with
            wireOut := s.wireOut ++ [cellValue s .txbuf s.txbuf s.txt],
            txie := if nextSlot s.txt s.cfg.txCap = s.txHeadSeen then false else s.txie }) := by
  unfold popTx at h
  simp only at h
  split at h
  · rename_i he; cases h; exact .inl ⟨by simpa using he, rfl⟩
  · rename_i he
    obtain ⟨d, hd, ht⟩ := andThen_eq_next.1 h
    obtain ⟨hi, rfl⟩ := readCell_eq_next hd
    cases ht
    refine .inr ⟨by simpa using he, by simpa using hi, ?_⟩
    simp [cellValue]

/-! ### The RX side -/

/-- The state after the oldest byte of the RX ring is taken (R129). -/
theorem takeRx_eq_next {s t : State} {d : Byte} (h : takeRx s = .next (d, t)) :
    s.rxt < s.cfg.rxCap ∧ d = cellValue s .rxbuf s.rxbuf s.rxt ∧ t = s.setRxT (nextSlot s.rxt s.cfg.rxCap) := by
  unfold takeRx at h
  obtain ⟨d', hd, ht⟩ := andThen_eq_next.1 h
  obtain ⟨hi, rfl⟩ := readCell_eq_next hd
  cases ht
  exact ⟨by simpa using hi, rfl, rfl⟩

/-- With the tail in range, the oldest byte can be taken. -/
theorem takeRx_next {s : State} (h : s.rxt < s.cfg.rxCap) :
    takeRx s = .next (cellValue s .rxbuf s.rxbuf s.rxt, s.setRxT (nextSlot s.rxt s.cfg.rxCap)) := by
  unfold takeRx
  rw [readCell_next (by simpa using h)]
  rfl

/-- Everything a push into the RX ring can do (R128). -/
theorem pushRx_eq_next {d : Byte} {s t : State} (h : pushRx d s = .next t) :
    (nextSlot s.rxh s.cfg.rxCap = s.rxTailSeen ∧ t = { s.rxTailRead with wireIn := s.wireIn ++ [d] }) ∨
    (nextSlot s.rxh s.cfg.rxCap ≠ s.rxTailSeen ∧ s.rxh < s.cfg.rxCap ∧
      t = { ({ s.rxTailRead with wireIn := s.wireIn ++ [d] }.setRxH (nextSlot s.rxh s.cfg.rxCap)) with
            rxbuf := Mem.write s.rxbuf s.rxh d }) := by
  unfold pushRx at h
  simp only at h
  split at h
  · rename_i he; cases h; exact .inl ⟨he, rfl⟩
  · rename_i he
    obtain ⟨m, hm, ht⟩ := andThen_eq_next.1 h
    obtain ⟨hi, rfl⟩ := writeCell_eq_next hm
    cases ht
    exact .inr ⟨he, by simpa using hi, by simp⟩

/-! ### The agents in progress -/

/-- Everything a STORE step can do (R191). -/
theorem storeStep_eq_next {f : List Byte} {stage : StoreStage} {s t : State} (h : storeStep f stage s = .next t) :
    (∃ si, stage = .s2 si ∧ si < s.cfg.frameCap ∧
        t = { s with kc := Mem.write s.kc si (byteAt f si), main := .store f (storeStage f (si + 1)) }) ∨
    (stage = .s3 ∧ t = { s with klen := f.length, main := .store f .s4 }) ∨
    (stage = .s4 ∧ t = { s with kvalid := true }.finish .ok .nothing) := by
  unfold storeStep at h
  split at h
  · rename_i si
    obtain ⟨m, hm, ht⟩ := andThen_eq_next.1 h
    obtain ⟨hi, rfl⟩ := writeCell_eq_next hm
    cases ht
    exact .inl ⟨si, rfl, by simpa using hi, rfl⟩
  · cases h; exact .inr (.inl ⟨rfl, rfl⟩)
  · cases h; exact .inr (.inr ⟨rfl, rfl⟩)

/-- The TXW step RESEND takes: the first one for its byte, or the next of the TXW in flight. -/
theorem resendTxw_eq_next {c : ResendCtx} {s : State} {r : TxwResult × State} (h : resendTxw c s = .next r) :
    (c.tx = none ∧ c.ri < s.cfg.frameCap ∧ txwFirst (cellValue s .kc s.kc c.ri) s = .next r) ∨
      (∃ t, c.tx = some t ∧ txwStep t s = .next r) := by
  unfold resendTxw at h
  split at h
  · rename_i he
    obtain ⟨b, hb, ht⟩ := andThen_eq_next.1 h
    obtain ⟨hi, rfl⟩ := readCell_eq_next hb
    exact .inl ⟨he, by simpa using hi, ht⟩
  · rename_i t he
    exact .inr ⟨t, he, h⟩

/-- Everything a RESEND step can do (R195). -/
theorem resendStep_eq_next {c : ResendCtx} {s : State} {u : Turn} (h : resendStep c s = .next u) :
    (c.ri < c.rlen ∧ ∃ r, resendTxw c s = .next r ∧ u = afterResendTxw c r) ∨
      (¬ c.ri < c.rlen ∧ u = ⟨{ s with line := .idle }, false⟩) := by
  unfold resendStep at h
  split at h
  · rename_i hr
    obtain ⟨r, hr', ht⟩ := andThen_eq_next.1 h
    cases ht
    exact .inl ⟨hr, r, hr', rfl⟩
  · rename_i hr; cases h; exact .inr ⟨hr, rfl⟩

/-- A RECV.take (R171): a byte of the RX ring is stored at `RB[CNT]` and counted, and what follows is `recvTaken`. -/
theorem recvTake_eq_next {c : RecvCtx} {s t : State} (h : recvTake c s = .next t) :
    s.rxt < s.cfg.rxCap ∧ c.cnt.toNat < 256 ∧
      recvTaken { c with rb := Mem.write c.rb c.cnt.toNat (cellValue s .rxbuf s.rxbuf s.rxt), cnt := c.cnt + 1#9 }
        (s.rxHeadRead.setRxT (nextSlot s.rxt s.cfg.rxCap)) = .next t := by
  unfold recvTake at h
  obtain ⟨⟨d, s1⟩, hd, h⟩ := andThen_eq_next.1 h
  obtain ⟨h1, rfl, rfl⟩ := takeRx_eq_next hd
  obtain ⟨m, hm, h⟩ := andThen_eq_next.1 h
  obtain ⟨h2, rfl⟩ := writeCell_eq_next hm
  refine ⟨by simpa using h1, by simpa using h2, ?_⟩
  simpa [cellValue] using h

/-- Everything that can follow the byte taken (R172, R174). -/
theorem recvTaken_eq_next {c : RecvCtx} {s t : State} (h : recvTaken c s = .next t) :
    ∃ c1, c1 = (if c.cnt = 2#9 then c.dispatch s else c) ∧
      ((c1.endTest s = .overflow ∧ t = s.finish .overflowed .nothing) ∨
       (c1.endTest s = .finished ∧ recvComplete c1 s = .next t) ∨
       (c1.endTest s = .more ∧ t = { s with main := .recv { c1 with stage := .poll } })) := by
  unfold recvTaken at h
  refine ⟨_, rfl, ?_⟩
  simp only at h
  split at h
  · rename_i he; cases h; exact .inl ⟨he, rfl⟩
  · rename_i he; exact .inr (.inl ⟨he, h⟩)
  · rename_i he; cases h; exact .inr (.inr ⟨he, rfl⟩)

/-- Everything finish Complete can do (R176). -/
theorem recvComplete_eq_next {c : RecvCtx} {s t : State} (h : recvComplete c s = .next t) :
    t = s.finish .crcMismatch .nothing ∨
      ∃ p, readSpan s .rb c.rb 2 c.plen.toNat = .next p ∧ t = s.finish .ok (.bytes c.plen.toNat p) := by
  unfold recvComplete at h
  obtain ⟨f, _, h⟩ := andThen_eq_next.1 h
  split at h
  · cases h; exact .inl rfl
  · obtain ⟨p, hp, h⟩ := andThen_eq_next.1 h
    cases h; exact .inr ⟨p, hp, rfl⟩

/-! ### The step -/

/-- Serving from the trace: an item is run with its bytes taken out, or there is none and the alternative is taken. -/
theorem serveWaiting_eq_next {s t : State} {o : Result State} (h : serveWaiting s o = .next t) :
    (∃ i rest, findItem (servable s) s.trace.length s.trace = .item i rest ∧ exec i { s with trace := rest } = .next t) ∨
      (nothingServable s ∧ o = .next t) := by
  unfold serveWaiting at h
  split at h
  · rename_i i rest he; exact .inl ⟨i, rest, he, h⟩
  · cases h
  · rename_i he; exact .inr ⟨he, h⟩

/-- An item found in a trace is one the search allows. -/
theorem findItem_allowed {may : Instr → Bool} {fuel : Nat} {bs rest : List Byte} {i : Instr}
    (h : findItem may fuel bs = .item i rest) : may i = true := by
  induction fuel generalizing bs rest with
  | zero => simp [findItem] at h
  | succ n ih =>
    unfold findItem at h
    split at h
    · cases h
    · cases h
    · split at h
      · rename_i hm; cases h; exact hm
      · split at h
        · rename_i hf; cases h; exact ih hf
        · rename_i hne
          exact absurd h (hne i rest)

/-- The turn of an agent that answers a state: its step made progress, or it held and an item may have been served. -/
theorem agentTurn_eq_next {s t : State} (h : agentTurn s = .next t) :
    ∃ u, agentStep s = .next u ∧
      ((u.held = false ∧ t = u.st) ∨ (u.held = true ∧ serveWaiting u.st (.next u.st) = .next t)) := by
  unfold agentTurn at h
  obtain ⟨u, hu, h⟩ := andThen_eq_next.1 h
  refine ⟨u, hu, ?_⟩
  split at h
  · rename_i hh; exact .inr ⟨hh, h⟩
  · rename_i hh; cases h; exact .inl ⟨by simpa using hh, rfl⟩

/-- A fetch that answers a state: the trace was at its end, or its first item was run. -/
theorem fetchNext_eq_next {s t : State} (h : fetchNext s = .next t) :
    (decodeItem s.trace = .none ∧ t = s) ∨
      ∃ i rest, decodeItem s.trace = .item i rest ∧ exec i { s with trace := rest } = .next t := by
  unfold fetchNext at h
  split at h
  · rename_i he; cases h; exact .inl ⟨he, rfl⟩
  · cases h
  · rename_i i rest he; exact .inr ⟨i, rest, he, h⟩

/-- The step while an operation is in progress, for the environment's choice at this boundary. -/
theorem inProgress_eq_next {s t : State} (h : inProgress s = .next t) :
    ∃ rest, (agentTurn { s with sched := rest } = .next t ∨
      (∃ i bytes, findItem (servable { s with sched := rest }) s.trace.length s.trace = .item i bytes ∧
        exec i { s with sched := rest, trace := bytes } = .next t)) := by
  unfold inProgress at h
  split at h
  · rename_i hs
    refine ⟨[], .inl ?_⟩
    have : { s with sched := [] } = s := by cases s; simp_all
    rw [this]; exact h
  · rename_i rest hs; exact ⟨rest, .inl h⟩
  · rename_i rest hs
    rcases serveWaiting_eq_next h with ⟨i, bytes, hf, he⟩ | ⟨_, h⟩
    · exact ⟨rest, .inr ⟨i, bytes, hf, he⟩⟩
    · exact ⟨rest, .inl h⟩

end Sys2Proof.Machine
end

