-- ==== Sys2Proof/Laws/PerInstr.lean ====
section
/-! SUPPORT. A fact about every item, one lemma per constructor: the first byte of its encoding is the match byte of its row of
spec/opcode_table.json. -/

namespace Sys2Proof.Laws.MatchByte

/-- The `match` byte of the item's row in spec/opcode_table.json. -/
def rowByte : Instr → Nat
  | .txw _ => 0x01
  | .rxr => 0x02
  | .rxocc => 0x03
  | .rxavl => 0x04
  | .txocc => 0x05
  | .txavl => 0x06
  | .crc16 _ => 0x07
  | .build _ => 0x08
  | .unpack _ => 0x09
  | .store _ => 0x0A
  | .recv => 0x0B
  | .rxpush _ => 0x10
  | .txpop => 0x11
  | .tick => 0x12
  | .abort0 => 0x20
  | .abort1 => 0x21
  | .rst => 0x22
  | .frameShort _ _ => 0x02
  | .frameExt _ _ => 0x03
  | .reserved0 => 0x00
  | .reservedC => 0x0C
  | .reservedD => 0x0D
  | .reservedE => 0x0E
  | .reservedF => 0x0F

/-- The encoding begins with the row's byte. -/
def Statement (i : Instr) : Prop := (encode i).head? = some (BitVec.ofNat 8 (rowByte i))

theorem txw (b : Byte) : Statement (.txw b) := rfl
theorem rxr : Statement .rxr := rfl
theorem rxocc : Statement .rxocc := rfl
theorem rxavl : Statement .rxavl := rfl
theorem txocc : Statement .txocc := rfl
theorem txavl : Statement .txavl := rfl
theorem crc16 (bytes : List Byte) : Statement (.crc16 bytes) := rfl
theorem build (payload : List Byte) : Statement (.build payload) := rfl
theorem unpack (frame : List Byte) : Statement (.unpack frame) := rfl
theorem store (frame : List Byte) : Statement (.store frame) := rfl
theorem recv : Statement .recv := rfl
theorem rxpush (d : Byte) : Statement (.rxpush d) := rfl
theorem txpop : Statement .txpop := rfl
theorem tick : Statement .tick := rfl
theorem abort0 : Statement .abort0 := rfl
theorem abort1 : Statement .abort1 := rfl
theorem rst : Statement .rst := rfl
theorem frameShort (payload : List Byte) (crc : Half) : Statement (.frameShort payload crc) := rfl
theorem frameExt (payload : List Byte) (crc : Half) : Statement (.frameExt payload crc) := rfl
theorem reserved0 : Statement .reserved0 := rfl
theorem reservedC : Statement .reservedC := rfl
theorem reservedD : Statement .reservedD := rfl
theorem reservedE : Statement .reservedE := rfl
theorem reservedF : Statement .reservedF := rfl

end Sys2Proof.Laws.MatchByte
end

