-- ==== Sys2Proof/Tests/Slice0.lean ====
section
/-! SUPPORT. Tests: the smoke test of WellFormed, one word of the spec's encoding tables per constructor, small steps whose
results are the test vectors of spec/95_test_vectors.md, and for every obligation with hypotheses a witness that meets them. -/

namespace Sys2Proof.Tests

open Sys2Proof Sys2Proof.Machine

/-! ### WellFormed refuses ill-formed items -/

theorem test_wf_crc16_too_long : (Instr.crc16 (List.replicate 65536 0#8)).wf = false := by
  simp only [Instr.wf, fitsLength16, List.length_replicate]; rfl
theorem test_wf_build_too_long : (Instr.build (List.replicate 65536 0#8)).wf = false := by
  simp only [Instr.wf, fitsLength16, List.length_replicate]; rfl
theorem test_wf_unpack_too_long : (Instr.unpack (List.replicate 65536 0#8)).wf = false := by
  simp only [Instr.wf, fitsLength16, List.length_replicate]; rfl
theorem test_wf_store_too_long : (Instr.store (List.replicate 65536 0#8)).wf = false := by
  simp only [Instr.wf, fitsLength16, List.length_replicate]; rfl
theorem test_wf_frameShort_too_long : (Instr.frameShort (List.replicate 256 0#8) 0#16).wf = false := by
  simp only [Instr.wf, List.length_replicate]; rfl
theorem test_wf_frameExt_too_short : (Instr.frameExt (List.replicate 255 0#8) 0#16).wf = false := by
  simp only [Instr.wf, List.length_replicate]; rfl
theorem test_wf_frameExt_too_long : (Instr.frameExt (List.replicate 65536 0#8) 0#16).wf = false := by
  simp only [Instr.wf, List.length_replicate]; rfl

/-! ### Decoding: the words of R100, R101, R103, R91 and R92 -/

theorem test_decode_reserved0 : decodeItem [0x00#8] = .item .reserved0 [] := by decide
theorem test_decode_txw : decodeItem [0x01#8, 0x5A#8, 0xFF#8] = .item (.txw 0x5A#8) [0xFF#8] := by decide
theorem test_decode_rxr : decodeItem [0x02#8] = .item .rxr [] := by decide
theorem test_decode_rxocc : decodeItem [0x03#8] = .item .rxocc [] := by decide
theorem test_decode_rxavl : decodeItem [0x04#8] = .item .rxavl [] := by decide
theorem test_decode_txocc : decodeItem [0x05#8] = .item .txocc [] := by decide
theorem test_decode_txavl : decodeItem [0x06#8] = .item .txavl [] := by decide
theorem test_decode_crc16 : decodeItem [0x07#8, 0x00#8, 0x01#8, 0x80#8] = .item (.crc16 [0x80#8]) [] := by decide
theorem test_decode_build : decodeItem [0x08#8, 0x00#8, 0x00#8, 0x11#8] = .item (.build []) [0x11#8] := by decide
theorem test_decode_unpack :
    decodeItem [0x09#8, 0x00#8, 0x02#8, 0x03#8, 0x04#8] = .item (.unpack [0x03#8, 0x04#8]) [] := by decide
theorem test_decode_store : decodeItem [0x0A#8, 0x00#8, 0x01#8, 0xAA#8] = .item (.store [0xAA#8]) [] := by decide
theorem test_decode_recv : decodeItem [0x0B#8] = .item .recv [] := by decide
theorem test_decode_reservedC : decodeItem [0x0C#8] = .item .reservedC [] := by decide
theorem test_decode_reservedD : decodeItem [0x0D#8] = .item .reservedD [] := by decide
theorem test_decode_reservedE : decodeItem [0x0E#8] = .item .reservedE [] := by decide
theorem test_decode_reservedF : decodeItem [0x0F#8] = .item .reservedF [] := by decide
theorem test_decode_rxpush : decodeItem [0x10#8, 0x22#8] = .item (.rxpush 0x22#8) [] := by decide
theorem test_decode_txpop : decodeItem [0x11#8] = .item .txpop [] := by decide
theorem test_decode_tick : decodeItem [0x12#8] = .item .tick [] := by decide
theorem test_decode_abort0 : decodeItem [0x20#8] = .item .abort0 [] := by decide
theorem test_decode_abort1 : decodeItem [0x21#8] = .item .abort1 [] := by decide
theorem test_decode_rst : decodeItem [0x22#8] = .item .rst [] := by decide

/-- R91, with the frame of D3.2. -/
theorem test_decode_frameShort :
    decodeFrame [0x02#8, 0x01#8, 0x04#8, 0x40#8, 0x84#8, 0x03#8] = some (.frameShort [0x04#8] 0x4084#16) := by decide
/-- R92, with a payload of 256 bytes. -/
theorem test_decode_frameExt :
    decodeFrame ([0x03#8, 0x01#8, 0x00#8] ++ List.replicate 256 0x11#8 ++ [0x12#8, 0x34#8, 0x03#8]) =
      some (.frameExt (List.replicate 256 0x11#8) 0x1234#16) := by decide +kernel

/-- D8.3: bytes that open no item. -/
theorem test_decode_bad_bytes :
    decodeItem [0x13#8] = .bad (.notATraceItem 0x13#8) ∧ decodeItem [0x23#8] = .bad (.notATraceItem 0x23#8) ∧
      decodeItem [0x30#8] = .bad (.notATraceItem 0x30#8) := by decide
/-- An item cut short (R103). -/
theorem test_decode_truncated :
    decodeItem [0x01#8] = .bad (.truncatedItem 0x01#8) ∧
      decodeItem [0x07#8, 0x00#8, 0x02#8, 0x31#8] = .bad (.truncatedItem 0x07#8) := by decide
/-- A frame without its EndMarker is none (R94). -/
theorem test_decode_frame_without_end :
    decodeFrame [0x02#8, 0x01#8, 0x04#8, 0x40#8, 0x84#8, 0x04#8] = none := by decide

/-- The rows of the opcode table, as words of 8 bits. The wire rows share their byte with RXR and RXOCC. -/
theorem test_table_words :
    [0x01, 0x02, 0x03, 0x04, 0x05, 0x06, 0x07, 0x08, 0x09, 0x0A, 0x0B].map (decodeTableWord 8) =
      [some (.txw 0#8), some .rxr, some .rxocc, some .rxavl, some .txocc, some .txavl, some (.crc16 []),
        some (.build []), some (.unpack []), some (.store []), some .recv] ∧
    [0x10, 0x11, 0x12, 0x20, 0x21, 0x22, 0x00, 0x0C, 0x0D, 0x0E, 0x0F].map (decodeTableWord 8) =
      [some (.rxpush 0#8), some .txpop, some .tick, some .abort0, some .abort1, some .rst, some .reserved0,
        some .reservedC, some .reservedD, some .reservedE, some .reservedF] := by decide

/-! ### One step each, with the results of spec/95_test_vectors.md -/

/-- A property of the next state; false where there is none. -/
def onNext (o : Result State) (p : State → Bool) : Bool :=
  match o with
  | .next t => p t
  | .fault _ => false
  | .refused _ => false

/-- The result an item answers last. -/
def answers (o : Result State) (r : Response) : Bool := onNext o fun t => t.rsp.getLast? == some r

/-- Rings of four slots (group D1). -/
def small : State := { State.reset with cfg := { rxN := 3, txN := 3 } }

/-- D1.2: the TX ring of four slots full. -/
def txFull : State :=
  { small with txbuf := [(0, 0x11#8), (1, 0x22#8), (2, 0x33#8)], txh := 3, txt := 0, txie := true }

/-- The frame of D3.2. -/
def frame4 : List Byte := [0x02#8, 0x01#8, 0x04#8, 0x40#8, 0x84#8, 0x03#8]

/-- After D6.2: the cache holds the frame of D3.2. -/
def cached : State :=
  { State.reset with
    kc := [(0, 0x02#8), (1, 0x01#8), (2, 0x04#8), (3, 0x40#8), (4, 0x84#8), (5, 0x03#8)], klen := 6, kvalid := true }

/-- D1.1. -/
theorem test_txw_stores :
    onNext (exec (.txw 0x11#8) small) (fun t => t.txh == 1 && t.txbuf == [(0, 0x11#8)] && t.txie) = true := by decide
/-- D1.5: the head wraps. -/
theorem test_txw_wraps :
    onNext (exec (.txw 0x44#8) { txFull with txt := 1 })
      (fun t => t.txh == 0 && Mem.read? t.txbuf 3 == some 0x44#8) = true := by decide
/-- D1.9. -/
theorem test_rxr_no_data : answers (exec .rxr small) ⟨.ok, .noData⟩ = true := by decide
/-- D1.11: the tail wraps. -/
theorem test_rxr_wraps :
    onNext (exec .rxr { small with rxbuf := [(3, 0xA5#8)], rxh := 0, rxt := 3 })
      (fun t => t.rxt == 0 && t.rsp == [⟨.ok, .byte 0xA5#8⟩]) = true := by decide
/-- D1.12. -/
theorem test_rxocc : answers (exec .rxocc { small with rxh := 1, rxt := 3 }) ⟨.ok, .count 2⟩ = true := by decide
/-- D1.12. -/
theorem test_rxavl : answers (exec .rxavl { small with rxh := 1, rxt := 3 }) ⟨.ok, .count 1⟩ = true := by decide
/-- D1.13. -/
theorem test_txocc : answers (exec .txocc { small with txh := 2, txt := 1 }) ⟨.ok, .count 1⟩ = true := by decide
/-- D1.13. -/
theorem test_txavl : answers (exec .txavl { small with txh := 2, txt := 1 }) ⟨.ok, .count 2⟩ = true := by decide
/-- D2.2. -/
theorem test_crc16_check_value :
    answers (exec (.crc16 [0x31#8, 0x32#8, 0x33#8, 0x34#8, 0x35#8, 0x36#8, 0x37#8, 0x38#8, 0x39#8]) small)
      ⟨.ok, .checksum 0x31C3#16⟩ = true := by decide +kernel
/-- D2.12. -/
theorem test_crc16_bound :
    answers (exec (.crc16 (List.replicate 257 0#8)) small) ⟨.badOperand, .nothing⟩ = true := by decide +kernel
/-- D3.2. -/
theorem test_build_short : answers (exec (.build [0x04#8]) small) ⟨.ok, .bytes 6 frame4⟩ = true := by decide +kernel
/-- D3.5: the shortest extended frame, its length and header. -/
theorem test_build_extended :
    onNext (exec (.build (List.replicate 256 0#8)) small)
      (fun t => match t.rsp with
        | [⟨.ok, .bytes n f⟩] => n == 262 && f.take 3 == [0x03#8, 0x01#8, 0x00#8]
        | _ => false) = true := by decide +kernel
/-- D4.1. -/
theorem test_unpack_ok : answers (exec (.unpack frame4) small) ⟨.ok, .bytes 1 [0x04#8]⟩ = true := by decide +kernel
/-- D4.4 and D4.6. -/
theorem test_unpack_fails :
    answers (exec (.unpack [0x02#8, 0x01#8, 0x04#8, 0x40#8, 0x85#8, 0x03#8]) small) ⟨.crcMismatch, .nothing⟩ = true ∧
      answers (exec (.unpack [0x02#8, 0x02#8, 0x04#8, 0x40#8, 0x84#8, 0x03#8]) small) ⟨.malformed, .nothing⟩ = true := by
  decide +kernel
/-- D6.3, its first step: validity goes first. -/
theorem test_store_begins :
    onNext (exec (.store frame4) cached) (fun t => !t.kvalid && t.main == .store frame4 (.s2 0) && t.klen == 6) = true := by
  decide
/-- D6.5. -/
theorem test_store_bound :
    onNext (exec (.store (List.replicate 263 0#8)) cached)
      (fun t => t.kvalid && t.rsp == [⟨.badOperand, .nothing⟩]) = true := by decide +kernel
/-- V0 (R171). -/
theorem test_recv_begins : onNext (exec .recv small) (fun t => t.main == .recv freshRecv) = true := by decide
/-- D5.6, its last step: the tenth empty round ends RECV. -/
theorem test_recv_times_out :
    onNext (step { small with main := .recv { freshRecv with round := 9#4, stage := .yield } })
      (fun t => t.main == .idle && t.rsp == [⟨.timedOut, .nothing⟩]) = true := by decide
/-- D1.10: the head wraps. -/
theorem test_rxpush_wraps :
    onNext (exec (.rxpush 0xA5#8) { small with rxh := 3, rxt := 1 })
      (fun t => t.rxh == 0 && t.rxbuf == [(3, 0xA5#8)]) = true := by decide
/-- D1.8. -/
theorem test_rxpush_drops :
    onNext (exec (.rxpush 0xA4#8) { small with rxh := 3, rxt := 0 })
      (fun t => t.rxh == 3 && t.rxbuf == [] && t.wireIn == [0xA4#8]) = true := by decide
/-- D1.6: the last byte disables the sender. -/
theorem test_txpop_last_byte :
    onNext (exec .txpop { small with txbuf := [(3, 0x44#8)], txh := 0, txt := 3, txie := true })
      (fun t => t.txt == 0 && !t.txie && t.wireOut == [0x44#8]) = true := by decide
/-- D1.7. -/
theorem test_txpop_more_bytes :
    onNext (exec .txpop txFull) (fun t => t.txt == 1 && t.txie && t.wireOut == [0x11#8]) = true := by decide
/-- D6.1. -/
theorem test_tick_without_frame : onNext (exec .tick State.reset) (fun t => t == State.reset) = true := by decide
/-- D6.2, the check of its TICK. -/
theorem test_tick_begins_resend :
    onNext (exec .tick cached) (fun t => t.line == .resend ⟨6, 0, none⟩ && t.kvalid) = true := by decide
/-- R41. -/
theorem test_abort0 : onNext (exec .abort0 { small with abort := true }) (fun t => !t.abort) = true := by decide
/-- R41. -/
theorem test_abort1 : onNext (exec .abort1 small) (fun t => t.abort) = true := by decide
/-- R50. -/
theorem test_rst :
    onNext (exec .rst { txFull with main := .recv freshRecv })
      (fun t => t.txh == 0 && !t.txie && t.txbuf == [] && t.main == .idle) = true := by decide
/-- R91: the frame of D3.2 arrives as six byte-received events. -/
theorem test_frameShort_arrives :
    onNext (exec (.frameShort [0x04#8] 0x4084#16) small)
      (fun t => t.trace == [0x10#8, 0x02#8, 0x10#8, 0x01#8, 0x10#8, 0x04#8, 0x10#8, 0x40#8, 0x10#8, 0x84#8, 0x10#8, 0x03#8]) =
      true := by decide
/-- R92: an extended frame arrives TypeTag first, with its length high byte first. -/
theorem test_frameExt_arrives :
    onNext (exec (.frameExt (List.replicate 256 0#8) 0#16) small)
      (fun t => t.trace.take 6 == [0x10#8, 0x03#8, 0x10#8, 0x01#8, 0x10#8, 0x00#8] && t.trace.length == 524) = true := by
  decide +kernel
/-- D8.1. -/
theorem test_reserved_refused :
    [Instr.reserved0, .reservedC, .reservedD, .reservedE, .reservedF].all
      (fun i => answers (exec i small) ⟨.badOperand, .nothing⟩) = true := by decide

/-- D1.2 and D1.3. -/
theorem test_txw_full :
    onNext (exec (.txw 0x44#8) txFull) (fun t => t.main == .txw ⟨0x44#8, .wait⟩ && t.txh == 3) = true ∧
      answers (exec (.txw 0x44#8) { txFull with abort := true }) ⟨.aborted, .nothing⟩ = true := by decide
/-- The word of a row, placed by withFetchWord, is the first item run after reset. -/
theorem test_step_runs_fetched_word :
    onNext (step (State.reset.withFetchWord 8 0x01)) (fun t => t.txh == 1 && t.trace == []) = true := by decide

/-! ### Witnesses: for each obligation with hypotheses, a state and operands that meet them -/

/-- The decidable part of the invariant, for states with no earlier index values. -/
def soundCheck (s : State) : Bool :=
  s.cfg.wf && decide (s.rxh < s.cfg.rxCap) && decide (s.rxt < s.cfg.rxCap) && decide (s.txh < s.cfg.txCap) &&
    decide (s.txt < s.cfg.txCap) && s.pastRxT.isEmpty && s.pastRxH.isEmpty && s.pastTxT.isEmpty && s.pastTxH.isEmpty &&
    decide (Mem.wf s.rxbuf) && decide (Mem.wf s.txbuf) && decide (Mem.wf s.kc) &&
    s.rxbuf.all (fun c => decide (c.1 < s.cfg.rxCap)) && s.txbuf.all (fun c => decide (c.1 < s.cfg.txCap)) &&
    s.kc.all (fun c => decide (c.1 < s.cfg.frameCap)) && decide (s.klen ≤ s.cfg.frameCap) &&
    (List.range s.klen).all (fun k => !s.kvalid || (Mem.read? s.kc k).isSome)

theorem inv_of_check {s : State} (h : soundCheck s = true) (hm : MainSound s) (hl : LineSound s) : BlockInv s := by
  simp only [soundCheck, Bool.and_eq_true, decide_eq_true_eq, List.isEmpty_iff, List.all_eq_true, List.mem_range,
    Bool.or_eq_true, Bool.not_eq_true'] at h
  obtain ⟨⟨⟨⟨⟨⟨⟨⟨⟨⟨⟨⟨⟨⟨⟨⟨a1, a2⟩, a3⟩, a4⟩, a5⟩, a6⟩, a7⟩, a8⟩, a9⟩, b1⟩, b2⟩, b3⟩, b4⟩, b5⟩, b6⟩, b7⟩, b8⟩ := h
  refine ⟨a1, ⟨a2, a3, a4, a5⟩, ⟨?_, ?_, ?_, ?_⟩, ⟨b1, b2, b3, b4, b5, b6⟩, ⟨b7, ?_⟩, hm, hl⟩
  · rw [a6]; intro v hv; cases hv
  · rw [a7]; intro v hv; cases hv
  · rw [a8]; intro v hv; cases hv
  · rw [a9]; intro v hv; cases hv
  · intro hv k hk
    rcases b8 k hk with h | h
    · rw [hv] at h; cases h
    · exact h

/-- A RECV in flight that has taken three bytes and will never have a length (D5.16). -/
def lengthless : RecvCtx :=
  { rb := [(0, 0x03#8), (1, 0x01#8), (2, 0x00#8)], cnt := 3#9, exp := none, plen := 0#8, round := 0#4, stage := .poll }

/-- A RESEND held on a full ring (D6.8): three of the six bytes are handled. -/
def heldResend : State :=
  { cached with cfg := { txN := 3 }, txbuf := [(0, 0x02#8), (1, 0x01#8), (2, 0x04#8)], txh := 3, txie := true
                line := .resend ⟨6, 3, some ⟨0x40#8, .wait⟩⟩ }

/-- As before, with LINE_NESTING. -/
def nesting : State := { heldResend with cfg := { txN := 3, lineNesting := true } }

/-- As before, with the split commit: the TXW of the fourth byte would hold at W2. -/
def nestingSplit : State :=
  { nesting with
    cfg := { txN := 3, lineNesting := true, txwSplitCommit := true }, line := .resend ⟨6, 3, some ⟨0x40#8, .w2 3 0⟩⟩ }

/-- Rings of four slots with the split commit (D1.15). -/
def split : State := { small with cfg := { txN := 3, txwSplitCommit := true } }

/-- A main-side TXW that holds (D1.2). -/
def heldTxw : State := { txFull with main := .txw ⟨0x44#8, .wait⟩ }

/-- A RECV at its tenth yield. -/
def lastYield : RecvCtx := { freshRecv with round := 9#4, stage := .yield }

/-- A RECV about to take the last byte of the frame of D3.2. -/
def lastTake : RecvCtx :=
  { rb := [(0, 0x02#8), (1, 0x01#8), (2, 0x04#8), (3, 0x40#8), (4, 0x84#8)], cnt := 5#9, exp := some 6#9, plen := 0x01#8
    round := 0#4, stage := .take }

/-- A RECV about to fill its buffer. -/
def fullTake : RecvCtx := { lengthless with cnt := 255#9, stage := .take }

/-- A RECV about to take its second byte. -/
def earlyTake : RecvCtx := { freshRecv with rb := [(0, 0x02#8)], cnt := 1#9, stage := .take }

/-- The last byte of a frame of D3.2 is the oldest one buffered. -/
def atLastByte (c : RecvCtx) : State := { small with rxbuf := [(0, 0x03#8)], rxh := 1, main := .recv c }

/-- A context after it has taken the byte 0x03 (R171). -/
def taken (c : RecvCtx) : RecvCtx :=
  let c2 : RecvCtx := { c with rb := Mem.write c.rb c.cnt.toNat 0x03#8, cnt := c.cnt + 1#9 }
  if c2.cnt = 2#9 then c2.dispatch small else c2

/-- The largest frame RECV completes (R179). -/
def longest : RecvCtx := { lengthless with cnt := 255#9, exp := some 255#9, plen := 250#8, rb := [(254, 0x03#8)] }

/-- The largest frame RECV completes with the other order of the end-tests (R179). -/
def longestOther : RecvCtx := { lengthless with cnt := 256#9, exp := some 256#9, plen := 251#8, rb := [(255, 0x03#8)] }

/-- The frame of D3.2 and two bytes of the next one buffered (D5.4). -/
def frameArrived : State :=
  { State.reset with
    rxbuf := [(0, 0x02#8), (1, 0x01#8), (2, 0x04#8), (3, 0x40#8), (4, 0x84#8), (5, 0x03#8), (6, 0x02#8), (7, 0x01#8)]
    rxh := 8 }

theorem inv_reset : BlockInv State.reset := inv_of_check (by decide) trivial trivial
theorem inv_cached : BlockInv cached := inv_of_check (by decide) trivial trivial
theorem inv_frameArrived : BlockInv frameArrived := inv_of_check (by decide) trivial trivial
theorem inv_heldResend : BlockInv heldResend :=
  inv_of_check (by decide) trivial ⟨by decide, rfl, rfl, fun t h => by cases h; rfl⟩
theorem inv_heldTxw : BlockInv heldTxw := inv_of_check (by decide) rfl trivial
theorem inv_storing : BlockInv { cached with kvalid := false, main := .store [0xAA#8] (.s2 0) } :=
  inv_of_check (by decide) ⟨by decide, rfl, by decide, fun k h => absurd h (by omega)⟩ trivial
theorem inv_lengthless : BlockInv { small with main := .recv lengthless } :=
  inv_of_check (by decide)
    { rbWf := by decide
      rbBelow := by intro c h; revert c; decide
      cnt := by decide
      round := by decide
      held := by decide
      expEarly := fun _ => rfl
      expShort := fun e h => by cases h
      nonempty := fun _ h => by cases h } trivial

theorem ready_reset : Ready State.reset := by decide
theorem ready_cached : Ready cached := by decide
theorem ready_small : Ready small := by decide
theorem ready_txFull : Ready txFull := by decide

theorem witness_StepServesNextItem :
    (small.main = .idle ∧ small.line = .idle ∧
      decodeItem ({ small with trace := [0x12#8, 0x11#8] } : State).trace = .item .tick [0x11#8]) ∧ small.trace = [] := by
  decide
theorem witness_StepTakesAgentTurn :
    (∃ u, agentStep { cached with line := .resend ⟨6, 0, none⟩ } = .next u ∧ u.held = false) ∧
    (∃ u, agentStep heldResend = .next u ∧ u.held = true ∧ nothingServable u.st) ∧
    (∃ u i rest, agentStep { heldResend with trace := [0x21#8] } = .next u ∧ u.held = true ∧
      findItem (servable u.st) u.st.trace.length u.st.trace = .item i rest) ∧
    (∃ i rest, findItem (servable { heldResend with trace := [0x20#8] }) 1 [0x20#8] = .item i rest) :=
  ⟨⟨_, rfl, rfl⟩, ⟨_, rfl, rfl, rfl⟩, ⟨_, _, _, rfl, rfl, rfl⟩, ⟨_, _, rfl⟩⟩
theorem witness_TraceEncodingRoundTrip :
    (Instr.store (List.replicate 65535 0#8)).wf = true ∧ (Instr.store (List.replicate 65535 0#8)).port ≠ .wire := by
  simp only [Instr.wf, fitsLength16, Instr.port, List.length_replicate]; decide
theorem witness_WireFrameRoundTrip :
    (Instr.frameShort (List.replicate 255 0#8) 0#16).wf = true ∧ (Instr.frameExt (List.replicate 256 0#8) 0#16).wf = true ∧
      (Instr.frameExt (List.replicate 65535 0#8) 0#16).wf = true ∧ (Instr.frameShort [] 0#16).port = .wire := by
  simp only [Instr.wf, Instr.port, List.length_replicate]; decide
theorem witness_ShortFrameLayout : (List.replicate 255 0x11#8).length ≤ 255 := by simp only [List.length_replicate]; decide
theorem witness_ExtendedFrameLayout :
    256 ≤ (List.replicate 256 0x11#8).length ∧ (List.replicate 65535 0x11#8).length ≤ 65535 := by
  simp only [List.length_replicate]; decide
theorem witness_ReservedCodesRefused :
    Ready small ∧ Instr.reservedF ∈ [Instr.reserved0, .reservedC, .reservedD, .reservedE, .reservedF] ∧
      ({ small with trace := [0x13#8] } : State).trace = 0x13#8 :: [] := by decide
theorem witness_TxwCommitStoresByte :
    Ready small ∧ small.cfg.txwSplitCommit = false ∧ small.txh < small.cfg.txCap ∧
      ringFull small.txh small.txTailSeen small.cfg.txCap = false := by decide
theorem witness_TxwFullHoldsOrAborts :
    Ready txFull ∧ txFull.cfg.txwSplitCommit = false ∧ ringFull txFull.txh txFull.txTailSeen txFull.cfg.txCap = true ∧
      txFull.abort = false ∧ Ready { txFull with abort := true } := by decide
theorem witness_TxpopLiftsHeldTxw :
    BlockInv heldTxw ∧ Plain heldTxw ∧ heldTxw.up = true ∧ heldTxw.line = .idle ∧ heldTxw.main = .txw ⟨0x44#8, .wait⟩ ∧
      ringFull heldTxw.txh heldTxw.txt heldTxw.cfg.txCap = true ∧ heldTxw.txie = true :=
  ⟨inv_heldTxw, by decide⟩
theorem witness_TxwSplitCommitSteps :
    (Ready split ∧ split.cfg.txwSplitCommit = true) ∧
    (split.line = .idle ∧ ({ split with main := .txw ⟨0x55#8, .w2 0 1⟩ } : State).main = .txw ⟨0x55#8, .w2 0 1⟩) ∧
    (({ split with main := .txw ⟨0x55#8, .w3 3 0⟩ } : State).main = .txw ⟨0x55#8, .w3 3 0⟩ ∧ 3 < split.cfg.txCap) ∧
    ({ split with main := .txw ⟨0x55#8, .w4 3 0⟩ } : State).main = .txw ⟨0x55#8, .w4 3 0⟩ ∧
    ({ split with main := .txw ⟨0x55#8, .w5 3 0⟩ } : State).main = .txw ⟨0x55#8, .w5 3 0⟩ := by decide
theorem witness_TxpopEmitsOldestByte :
    (LineReady txFull ∧ txFull.txie = true ∧ txFull.txHeadSeen ≠ txFull.txt ∧ txFull.txt < txFull.cfg.txCap) ∧
    (LineReady { small with txie := true } ∧ small.txHeadSeen = small.txt) ∧ (LineReady small ∧ small.txie = false) := by
  decide
theorem witness_TxBytesStayInOrder :
    BlockInv { State.reset with trace := [0x01#8, 0x41#8] } ∧ Plain State.reset ∧
      onNext (step { State.reset with trace := [0x01#8, 0x41#8] }) (fun t => t.epoch == 0 && t.txh == 1) = true :=
  ⟨inv_of_check (by decide) trivial trivial, by decide, by decide⟩
theorem witness_StepKeepsStreaming :
    BlockInv { State.reset with trace := [0x01#8, 0x41#8] } ∧ Plain State.reset ∧
      Streaming { State.reset with trace := [0x01#8, 0x41#8] } ∧
      onNext (step { State.reset with trace := [0x01#8, 0x41#8] }) (fun t => t.txie) = true :=
  ⟨inv_of_check (by decide) trivial trivial, by decide, ⟨by decide, by decide⟩, by decide⟩
theorem witness_RxpushStoresOrDrops :
    (LineReady small ∧ small.rxh < small.cfg.rxCap ∧ (small.rxh + 1) % small.cfg.rxCap ≠ small.rxTailSeen) ∧
    (LineReady { small with rxh := 3 } ∧ (3 + 1) % small.cfg.rxCap = small.rxTailSeen) := by decide
theorem witness_RxrReturnsOldestByte :
    (Ready small ∧ small.rxHeadSeen = small.rxt) ∧
    (Ready frameArrived ∧ frameArrived.rxHeadSeen ≠ frameArrived.rxt ∧ frameArrived.rxt < frameArrived.cfg.rxCap) := by
  decide
theorem witness_OccupancyQueriesAnswer : Ready frameArrived := by decide
theorem witness_RxBytesStayInOrder :
    BlockInv { State.reset with trace := [0x10#8, 0xA1#8] } ∧ State.reset.cfg.xsideView = .exact ∧
      onNext (step { State.reset with trace := [0x10#8, 0xA1#8] })
        (fun t => t.epoch == 0 && t.wireIn == [0xA1#8]) = true :=
  ⟨inv_of_check (by decide) trivial trivial, by decide, by decide⟩
theorem witness_CrossSideReads :
    small.cfg.xsideView = .exact ∧ ({ xsideView := .staleMonotone } : Config.Params).xsideView = .staleMonotone := by decide
theorem witness_ChecksumAnswers :
    Ready small ∧ (List.replicate 256 0#8).length ≤ small.cfg.payloadMax ∧
      small.cfg.payloadMax < (List.replicate 257 0#8).length := by decide +kernel
theorem witness_BuildAnswers :
    Ready small ∧ (List.replicate 255 0#8).length ≤ 255 ∧ 255 < (List.replicate 256 0#8).length ∧
      (List.replicate 256 0#8).length ≤ small.cfg.payloadMax ∧
      small.cfg.payloadMax < (List.replicate 257 0#8).length := by decide +kernel
theorem witness_UnpackAnswers :
    Ready small ∧ small.cfg.frameCap < (List.replicate 263 0#8).length ∧ ¬ 5 ≤ ([] : List Byte).length ∧
    (frame4.length ≤ small.cfg.frameCap ∧ byteAt frame4 0 = 0x02#8 ∧ (byteAt frame4 1).toNat = 1 ∧
      frame4.length = 1 + 5 ∧ byteAt frame4 (1 + 4) = 0x03#8) := by decide +kernel
theorem witness_UnpackOfBuildReturnsPayload :
    Ready small ∧ [0x04#8].length ≤ 255 ∧ answers (exec (.build [0x04#8]) small) ⟨.ok, .bytes 6 frame4⟩ = true := by
  decide +kernel
theorem witness_OneByteMutationDetected :
    Ready small ∧ [0x04#8].length ≤ small.cfg.payloadMax ∧
      ∀ i, i < [0x04#8].length + 5 → (frameOf small.cfg [0x04#8])[i]? ≠ some 0xEE#8 := by decide +kernel
theorem witness_RecvBeginsPollsAndYields :
    Ready small ∧
    (small.line = .idle ∧ ({ small with main := .recv freshRecv } : State).main = .recv freshRecv ∧ freshRecv.stage = .poll) ∧
    (({ small with main := .recv lastYield } : State).main = .recv lastYield ∧ lastYield.stage = .yield ∧
      lastYield.round.toNat ≤ 9) := by decide
theorem witness_DispatchSetsExpectedLength :
    ({ freshRecv with rb := [(0, 0x02#8), (1, 0xFF#8)] } : RecvCtx).byteAt small 0 = 0x02#8 ∧
      lengthless.byteAt small 0 ≠ 0x02#8 := by decide
theorem witness_EndTestOrderMattersOnce : lengthless.cnt.toNat ≤ 256 ∧ (256#9).toNat ≤ 256 := by decide
theorem witness_RecvTakeStoresByte :
    (∀ c ∈ [lastTake, fullTake, earlyTake], (atLastByte c).line = .idle ∧ (atLastByte c).main = .recv c ∧
      c.stage = .take ∧ (atLastByte c).rxt < (atLastByte c).cfg.rxCap ∧ c.cnt.toNat < 256) ∧
    (taken lastTake).endTest small = .finished ∧ (taken lastTake).plen.toNat ≤ 254 ∧
    (taken fullTake).endTest small = .overflow ∧ (taken earlyTake).endTest small = .more := by decide
theorem witness_RecvReturnsBufferedFrame :
    Ready frameArrived ∧ BlockInv frameArrived ∧ frameArrived.cfg.xsideView = .exact ∧ frameArrived.sched = [] ∧
      [0x04#8].length ≤ frameArrived.cfg.payloadMax ∧
      bufferedRx frameArrived = frameOf frameArrived.cfg [0x04#8] ++ [0x02#8, 0x01#8] :=
  ⟨by decide, inv_frameArrived, by decide, by decide, by decide, by decide +kernel⟩
theorem witness_RecvTimesOutOnEmptyRing :
    Ready small ∧ small.cfg.xsideView = .exact ∧ small.sched = [] ∧ small.rxh = small.rxt := by decide
theorem witness_RecvAlwaysFinishes : Ready frameArrived ∧ BlockInv frameArrived ∧ frameArrived.sched = [] :=
  ⟨by decide, inv_frameArrived, rfl⟩
theorem witness_RecvWithoutLengthFails :
    BlockInv { small with main := .recv lengthless } ∧ small.line = .idle ∧ 2 ≤ lengthless.cnt.toNat ∧
      (∀ e, lengthless.exp = some e → e.toNat ≤ lengthless.cnt.toNat) ∧
      ∃ u, agentStep { small with main := .recv lengthless } = .next u :=
  ⟨inv_lengthless, rfl, by decide, (fun e h => by cases h), ⟨_, rfl⟩⟩
theorem witness_LargestFrameRecvCompletes :
    (longest.cnt.toNat ≤ 256 ∧ longest.exp = some 255#9 ∧ (255#9).toNat = longest.plen.toNat + 5 ∧
      longest.endTest small = .finished) ∧
    (longestOther.cnt.toNat ≤ 256 ∧ longestOther.exp = some 256#9 ∧ (256#9).toNat = longestOther.plen.toNat + 5 ∧
      longestOther.endTest { small with cfg := { reasmFullWins := false } } = .finished) := by decide
theorem witness_StoreBeginsOrRefuses :
    Ready cached ∧ cached.cfg.frameCap < (List.replicate 263 0#8).length ∧
      (List.replicate 262 0#8).length ≤ cached.cfg.frameCap := by decide +kernel
theorem witness_StoreFillsCache : Ready cached ∧ cached.sched = [] ∧ frame4.length ≤ cached.cfg.frameCap := by decide
theorem witness_TickRunsResendCheck :
    (LineReady small ∧ small.kvalid = false) ∧ (LineReady cached ∧ cached.kvalid = true ∧ 0 < cached.klen) ∧
      LineReady { cached with klen := 0 } := by decide
theorem witness_TickDuringStoreDoesNothing :
    BlockInv { cached with kvalid := false, main := .store [0xAA#8] (.s2 0) } ∧ cached.up = true ∧ cached.line = .idle :=
  ⟨inv_storing, by decide⟩
theorem witness_ResendAppendsCachedFrame :
    LineReady cached ∧ BlockInv cached ∧ Plain cached ∧ cached.sched = [] ∧ cached.kvalid = true ∧
      cached.klen ≤ avail cached.txh cached.txt cached.cfg.txCap :=
  ⟨by decide, inv_cached, by decide⟩
theorem witness_HeldResendHoldsTheBlock :
    Plain heldResend ∧ heldResend.up = true ∧ heldResend.sched = [] ∧
      heldResend.line = .resend ⟨6, 3, some ⟨0x40#8, .wait⟩⟩ ∧ 3 < 6 ∧
      ringFull heldResend.txh heldResend.txt heldResend.cfg.txCap = true ∧ heldResend.abort = false ∧
      nothingServable heldResend := ⟨by decide, rfl, rfl, rfl, by decide, rfl, rfl, rfl⟩
theorem witness_AbortFreesHeldResend :
    Plain { heldResend with abort := true } ∧ heldResend.up = true ∧ heldResend.sched = [] ∧
      ({ heldResend with abort := true } : State).line = .resend ⟨6, 3, some ⟨0x40#8, .wait⟩⟩ ∧ 3 < 6 ∧
      ringFull heldResend.txh heldResend.txt heldResend.cfg.txCap = true ∧
      ({ heldResend with abort := true } : State).abort = true := by decide
theorem witness_OneOperationPerSide :
    (small.up = true ∧ Instr.rxr.port = .main ∧ ({ small with main := .recv freshRecv } : State).main ≠ .idle) ∧
    (heldResend.up = true ∧ heldResend.main = .idle ∧ heldResend.line ≠ .idle) ∧
    (Instr.txpop.port = .line ∧ heldResend.cfg.lineNesting = false ∧ Instr.tick.port = .line ∧ Instr.tick ≠ .txpop) := by
  decide
theorem witness_NestedTxpopServed :
    (nesting.up = true ∧ nesting.cfg.lineNesting = true ∧ nesting.line = .resend ⟨6, 3, some ⟨0x40#8, .wait⟩⟩ ∧
      nesting.abort = false ∧ ringFull nesting.txh nesting.txTailSeen nesting.cfg.txCap = true ∧
      nesting.txie = true ∧ nesting.txHeadSeen ≠ nesting.txt ∧ nesting.txt < nesting.cfg.txCap) ∧
    (nestingSplit.up = true ∧ nestingSplit.cfg.lineNesting = true ∧ nestingSplit.abort = false ∧
      nestingSplit.line = .resend ⟨6, 3, some ⟨0x40#8, .w2 3 nestingSplit.txTailSeen⟩⟩ ∧ nestingSplit.txie = true ∧
      nestingSplit.txHeadSeen ≠ nestingSplit.txt ∧ nestingSplit.txt < nestingSplit.cfg.txCap) ∧
    (nesting.cfg.xsideView = .exact ∧ ringFull 3 ({ nesting with txt := 1 } : State).txt nesting.cfg.txCap = false ∧
      ({ nesting with abort := true } : State).abort = true) := by decide
/-- R71: a pop that makes room ends the wait, so a second TXPOP waits its turn; with room at W2 none is served. -/
theorem test_nested_txpop_only_in_wait :
    onNext (exec .txpop nesting) (fun t => t.wireOut == [0x02#8] && t.txt == 1) = true ∧
      onNext (exec .txpop { nesting with txt := 1 }) (fun t => t.wireOut == [] && t.trace == [0x11#8]) = true ∧
      onNext (exec .txpop { nestingSplit with txt := 1 })
        (fun t => t.wireOut == [] && t.trace == [0x11#8]) = true := by decide
/-- R5: IDXW is 2 for an array of 4 slots, 3 for one of 5, and 7 for the default of 128; KLEN's width is 9 (0 to 262). -/
theorem test_widths :
    ({ txN := 3 } : Config.Params).idxwTx = 2 ∧ ({ txN := 4 } : Config.Params).idxwTx = 3 ∧
      ({} : Config.Params).idxwRx = 7 ∧ ({} : Config.Params).lenWidth = 9 := by decide +kernel
theorem witness_RegistersFitTheirWidths : BlockInv heldResend ∧ heldResend.line = .resend ⟨6, 3, some ⟨0x40#8, .wait⟩⟩ :=
  ⟨inv_heldResend, rfl⟩
theorem witness_RefusedBeforeFirstReset :
    ({ small with up := false } : State).up = false ∧ Instr.rxr.port = .main ∧ Instr.tick.port = .line := by decide
theorem witness_AbortChangesOnlyTheLevel :
    onNext (exec .rst { txFull with abort := true }) (fun t => t.abort) = true ∧ Instr.rst ≠ .abort0 ∧
      Instr.rst ≠ .abort1 := by decide
theorem witness_ItemsWriteOnlyTheirElements :
    onNext (exec (.txw 0x11#8) small) (fun t => t.txh == 1) = true ∧ Instr.txw 0x11#8 ≠ .rst := by decide
theorem witness_AgentsWriteOnlyTheirElements :
    (∃ u, agentStep { small with main := .recv lengthless } = .next u) ∧
    (∃ u, agentStep { cached with main := .store [0xAA#8] (.s2 0) } = .next u) ∧
    (∃ u, agentStep { cached with line := .resend ⟨6, 0, none⟩ } = .next u) := ⟨⟨_, rfl⟩, ⟨_, rfl⟩, ⟨_, rfl⟩⟩
theorem witness_StepKeepsParameters : ∃ t, step State.reset = .next t := ⟨_, rfl⟩
theorem witness_StepKeepsInvariant :
    BlockInv heldResend ∧ ∃ t, step { heldResend with abort := true } = .next t := ⟨inv_heldResend, ⟨_, rfl⟩⟩
theorem witness_StepNeverFaults : BlockInv heldTxw := inv_heldTxw
theorem witness_PseudoOperationsExpand :
    State.reset.cfg.wf = true ∧ [0x04#8].length ≤ State.reset.cfg.payloadMax ∧
      State.reset.cfg.payloadMax < (List.replicate 257 0#8).length := by decide +kernel
theorem witness_HostTakesOnlyUsableResponses :
    (4#8 = State.reset.cfg.cmdGetValues ∧ 55 ≤ (List.replicate 54 0#8).length + 1) ∧
      (List.replicate 53 0#8).length + 1 < 55 ∧ 9#8 ≠ State.reset.cfg.cmdGetValues ∧ Status.timedOut ≠ .ok := by decide

/-- D7.1: the frame of SET_RPM 1200. -/
theorem test_host_set_rpm :
    commandFrame {} 8#8 1200#32 =
      [0x02#8, 0x05#8, 0x08#8, 0x00#8, 0x00#8, 0x04#8, 0xB0#8, 0x69#8, 0x32#8, 0x03#8] := by decide +kernel
/-- D7.5: the 54-byte response is too short. -/
theorem test_host_short_response :
    hostVerdict {} ⟨.ok, .bytes 54 (0x04#8 :: List.replicate 53 0#8)⟩ = .shortResponse := by decide

end Sys2Proof.Tests
end

/-! ## O52: the indices and lengths fit their registers (R5, R20, R29) -/

section
namespace Sys2Proof.Machine

/-- A value of the range `0 .. n - 1` fits in `ceil(log2(n))` bits (R5, R20). -/
theorem lt_two_pow_ceilLog2 {x n : Nat} (h : x < n) : x < 2 ^ Config.ceilLog2 n :=
  h.trans_le ((ceilLog2_le_iff n _).mp le_rfl)

/-- A register of `ceil(log2(n))` bits keeps a value of the range `0 .. n - 1` as it is. -/
theorem toNat_ofNat_ceilLog2 {x n : Nat} (h : x < n) : (BitVec.ofNat (Config.ceilLog2 n) x).toNat = x :=
  (BitVec.toNat_ofNat x _).trans (Nat.mod_eq_of_lt (lt_two_pow_ceilLog2 h))

/-- R20, R23: the four ring indices are what their registers hold. -/
theorem IndicesInRange.registers {s : State} (h : IndicesInRange s) :
    s.rxhReg.toNat = s.rxh ∧ s.rxtReg.toNat = s.rxt ∧ s.txhReg.toNat = s.txh ∧ s.txtReg.toNat = s.txt :=
  ⟨toNat_ofNat_ceilLog2 h.rxh, toNat_ofNat_ceilLog2 h.rxt, toNat_ofNat_ceilLog2 h.txh, toNat_ofNat_ceilLog2 h.txt⟩

/-- R20, R25: `KLEN` is what its register holds. -/
theorem CacheSound.klenReg_toNat {s : State} (h : CacheSound s) : s.klenReg.toNat = s.klen :=
  toNat_ofNat_ceilLog2 (Nat.lt_succ_of_le h.klen)

/-- R29: a RESEND in progress sends the cached frame, and its cursor stands at or before the last byte of it. -/
theorem BlockInv.resend_bounds {s : State} (h : BlockInv s) {c : ResendCtx} (hc : s.line = .resend c) :
    c.ri < c.rlen ∧ c.rlen ≤ s.cfg.frameCap := by
  have hline := h.line
  simp only [LineSound, hc] at hline
  obtain ⟨hri, hrlen, -, -⟩ := hline
  exact ⟨hri, hrlen.trans_le h.cache.klen⟩

/-- R29: `RLEN` and `RI` fit the width of `KLEN`. -/
theorem BlockInv.resend_fits {s : State} (h : BlockInv s) {c : ResendCtx} (hc : s.line = .resend c) :
    c.rlen < 2 ^ s.cfg.lenWidth ∧ c.ri < 2 ^ s.cfg.lenWidth := by
  obtain ⟨hri, hrlen⟩ := h.resend_bounds hc
  have hfits : c.rlen < 2 ^ s.cfg.lenWidth := lt_two_pow_ceilLog2 (Nat.lt_succ_of_le hrlen)
  exact ⟨hfits, hri.trans hfits⟩

/-- Settles O52: the invariant bounds each index by its capacity and each length by `FRAME_CAP`, and `ceil(log2(n))` bits
are the fewest that hold `0 .. n - 1`. -/
theorem registersFitTheirWidths : Obligations.RegistersFitTheirWidths := by
  unfold Obligations.RegistersFitTheirWidths
  intro s h
  obtain ⟨hrxh, hrxt, htxh, htxt⟩ := h.indices.registers
  refine ⟨⟨hrxh, hrxt, htxh, htxt, h.cache.klenReg_toNat⟩, fun _ hc => h.resend_fits hc,
    ?rxSmallest, ?txSmallest, ?lenSmallest⟩
  case rxSmallest => exact fun w => (ceilLog2_le_iff s.cfg.rxCap w).symm
  case txSmallest => exact fun w => (ceilLog2_le_iff s.cfg.txCap w).symm
  case lenSmallest => exact fun w => (ceilLog2_le_iff (s.cfg.frameCap + 1) w).symm

end Sys2Proof.Machine
end

/-! ## What one item, one agent's step and one machine step can do -/

section
namespace Sys2Proof.Machine

/-- Everything the serving of an item can do to a state, by item (R20, R70, R100 to R103). What a result carries
beside the tables of R105 is left open. -/
inductive ItemEffect (s : State) : Instr → State → Prop
  /-- R70 item 3: a request made while the line side is in progress is taken without a step -/
  | taken {i : Instr} (port : i.port = .main) (busy : s.line ≠ .idle) : ItemEffect s i { s with main := .issued i }
  /-- R70 item 2: an event that may not begin waits at the head of the trace -/
  | waits {i : Instr} (port : i.port = .line) : ItemEffect s i { s with trace := encode i ++ s.trace }
  /-- an event that finds nothing to do: TXPOP with `TXIE = 0`, TICK with `KVALID = 0` -/
  | usedUp {i : Instr} (port : i.port = .line) : ItemEffect s i s
  /-- an operation that reads no ring and finishes in its first step -/
  | answered {i : Instr} (port : i.port = .main) (st : Status) (v : RspValue) (ready : Ready s) :
      ItemEffect s i (s.finish st v)
  /-- a query of the TX ring -/
  | txAnswered {i : Instr} (port : i.port = .main) (st : Status) (v : RspValue) (ready : Ready s) :
      ItemEffect s i (s.txTailRead.finish st v)
  /-- a query of the RX ring, or RXR on an empty one -/
  | rxAnswered {i : Instr} (port : i.port = .main) (st : Status) (v : RspValue) (ready : Ready s) :
      ItemEffect s i (s.rxHeadRead.finish st v)
  /-- a reserved operation code (R102) -/
  | marked {i : Instr} (port : i.port = .main) (st : Status) (v : RspValue) (ready : Ready s) :
      ItemEffect s i { s.finish st v with marked := true }
  /-- RXR with a byte (R129) -/
  | rxTaken (st : Status) (v : RspValue) (ready : Ready s) (inRange : s.rxt < s.cfg.rxCap) :
      ItemEffect s .rxr ((s.rxHeadRead.setRxT (nextSlot s.rxt s.cfg.rxCap)).finish st v)
  /-- the first step of TXW (R121 to R123) -/
  | txwBegun {b : Byte} {r : TxwResult × State} (ready : Ready s) (first : txwFirst b s = .next r) :
      ItemEffect s (.txw b) (afterMainTxw r)
  /-- S1 of STORE (R191) -/
  | storeBegun {f : List Byte} (ready : Ready s) (fits : f.length ≤ s.cfg.frameCap) :
      ItemEffect s (.store f) { s with kvalid := false, main := .store f (storeStage f 0) }
  /-- V0 of RECV (R171) -/
  | recvBegun (ready : Ready s) : ItemEffect s .recv { s with main := .recv freshRecv }
  /-- RXPUSH (R128) -/
  | pushed {d : Byte} {t : State} (push : pushRx d s = .next t) : ItemEffect s (.rxpush d) t
  /-- TXPOP with `TXIE = 1` (R126, R127) -/
  | popped {t : State} (pop : popTx s = .next t) : ItemEffect s .txpop t
  /-- K1 of RESEND with the cache valid (R194, R195) -/
  | resendBegun (free : s.line = .idle) (valid : s.kvalid = true) :
      ItemEffect s .tick { s with line := resendAt s.klen 0 }
  /-- `.abort 0` (R41) -/
  | abortLow : ItemEffect s .abort0 { s with abort := false }
  /-- `.abort 1` (R41) -/
  | abortHigh : ItemEffect s .abort1 { s with abort := true }
  /-- `.rst` (R42, R50) -/
  | reset : ItemEffect s .rst s.afterRst
  /-- a frame on the line (R91, R92) -/
  | arrived {i : Instr} (port : i.port = .wire) (bytes : List Byte) : ItemEffect s i (arrive bytes s)

/-- A request has an effect when its body, begun from a ready state, has one. -/
theorem issue_effect {i : Instr} {s t : State} {body : State → Result State} (port : i.port = .main)
    (h : issue i s body = .next t) (begun : Ready s → body s = .next t → ItemEffect s i t) : ItemEffect s i t := by
  obtain ⟨up, idle, ⟨busy, rfl⟩ | ⟨free, hbody⟩⟩ := issue_eq_next h
  · exact .taken port busy
  · exact begun ⟨up, idle, free⟩ hbody

/-- An event has an effect when its body, where it may begin, has one. -/
theorem serve_effect {i : Instr} {s t : State} {body : State → Result State} (port : i.port = .line)
    (h : serve i s body = .next t) (begun : mayBegin s i = true → body s = .next t → ItemEffect s i t) :
    ItemEffect s i t := by
  obtain ⟨-, ⟨may, hbody⟩ | ⟨-, rfl⟩⟩ := serve_eq_next h
  · exact begun may hbody
  · exact .waits port

/-- A reserved operation code is taken, or refused with the run marked (R102). -/
theorem refuseReserved_effect {i : Instr} {s t : State} (port : i.port = .main) (h : refuseReserved i s = .next t) :
    ItemEffect s i t :=
  issue_effect port h fun ready hb => by cases hb; exact .marked port _ _ ready

/-- `ItemEffect` says everything `exec` can do. -/
theorem exec_effect {i : Instr} {s t : State} (h : exec i s = .next t) : ItemEffect s i t := by
  cases i with
  | txw b =>
    unfold exec execTxw at h
    refine issue_effect rfl h fun ready hb => ?_
    obtain ⟨r, first, ht⟩ := andThen_eq_next.1 hb
    cases ht
    exact .txwBegun ready first
  | rxr =>
    unfold exec execRxr at h
    refine issue_effect rfl h fun ready hb => ?_
    simp only at hb
    split at hb
    · cases hb; exact .rxAnswered rfl _ _ ready
    · obtain ⟨⟨d, u⟩, hd, ht⟩ := andThen_eq_next.1 hb
      obtain ⟨inRange, -, rfl⟩ := takeRx_eq_next hd
      cases ht
      simpa using ItemEffect.rxTaken _ _ ready (by simpa using inRange)
  | rxocc =>
    unfold exec execRxocc at h
    exact issue_effect rfl h fun ready hb => by cases hb; exact .rxAnswered rfl _ _ ready
  | rxavl =>
    unfold exec execRxavl at h
    exact issue_effect rfl h fun ready hb => by cases hb; exact .rxAnswered rfl _ _ ready
  | txocc =>
    unfold exec execTxocc at h
    exact issue_effect rfl h fun ready hb => by cases hb; exact .txAnswered rfl _ _ ready
  | txavl =>
    unfold exec execTxavl at h
    exact issue_effect rfl h fun ready hb => by cases hb; exact .txAnswered rfl _ _ ready
  | crc16 bytes =>
    unfold exec execCrc16 at h
    refine issue_effect rfl h fun ready hb => ?_
    split at hb <;> cases hb <;> exact .answered rfl _ _ ready
  | build payload =>
    unfold exec execBuild at h
    refine issue_effect rfl h fun ready hb => ?_
    split at hb <;> cases hb <;> exact .answered rfl _ _ ready
  | unpack frame =>
    unfold exec execUnpack at h
    refine issue_effect rfl h fun ready hb => ?_
    cases hb
    cases validate s.cfg frame <;> exact .answered rfl _ _ ready
  | store frame =>
    unfold exec execStore at h
    refine issue_effect rfl h fun ready hb => ?_
    split at hb
    · rename_i fits
      cases hb
      exact .storeBegun ready (by simpa [frameFits] using fits)
    · cases hb; exact .answered rfl _ _ ready
  | recv =>
    unfold exec execRecv at h
    exact issue_effect rfl h fun ready hb => by cases hb; exact .recvBegun ready
  | rxpush d => exact serve_effect rfl h fun _ hb => .pushed hb
  | txpop =>
    unfold exec execTxpop at h
    refine serve_effect rfl h fun _ hb => ?_
    split at hb
    · exact .popped hb
    · cases hb; exact .usedUp rfl
  | tick =>
    unfold exec execTick at h
    refine serve_effect rfl h fun may hb => ?_
    split at hb
    · rename_i valid
      have free : s.line = .idle := by simpa using (mayBegin_iff s .tick).1 may
      cases hb
      exact .resendBegun free valid
    · cases hb; exact .usedUp rfl
  | abort0 => cases h; exact .abortLow
  | abort1 => cases h; exact .abortHigh
  | rst => cases h; exact .reset
  | frameShort payload crc => cases h; exact .arrived rfl _
  | frameExt payload crc => cases h; exact .arrived rfl _
  | reserved0 => exact refuseReserved_effect rfl h
  | reservedC => exact refuseReserved_effect rfl h
  | reservedD => exact refuseReserved_effect rfl h
  | reservedE => exact refuseReserved_effect rfl h
  | reservedF => exact refuseReserved_effect rfl h

/-- One step of the agent whose turn it is (R70 items 2 and 3): the line side first, then the main side; with nothing in
progress, none. -/
theorem agentStep_eq_next {s : State} {u : Turn} (h : agentStep s = .next u) :
    (∃ c, s.line = .resend c ∧ resendStep c s = .next u) ∨
    (s.line = .idle ∧
      ((s.main = .idle ∧ u = ⟨s, true⟩) ∨
       (∃ i, s.main = .issued i ∧ exec i { s with main := .idle } = .next u.st) ∨
       (∃ c r, s.main = .txw c ∧ txwStep c s = .next r ∧ u.st = afterMainTxw r) ∨
       (∃ f stage, s.main = .store f stage ∧ storeStep f stage s = .next u.st) ∨
       (∃ c, s.main = .recv c ∧ recvStep c s = .next u.st))) := by
  unfold agentStep at h
  split at h
  · rename_i c hline; exact .inl ⟨c, hline, h⟩
  · rename_i hline
    refine .inr ⟨hline, ?_⟩
    split at h
    · rename_i hmain; cases h; exact .inl ⟨hmain, rfl⟩
    · rename_i i hmain
      obtain ⟨t, ht, hu⟩ := andThen_eq_next.1 h
      cases hu; exact .inr (.inl ⟨i, hmain, ht⟩)
    · rename_i c hmain
      obtain ⟨r, hr, hu⟩ := andThen_eq_next.1 h
      cases hu; exact .inr (.inr (.inl ⟨c, r, hmain, hr, rfl⟩))
    · rename_i f stage hmain
      obtain ⟨t, ht, hu⟩ := andThen_eq_next.1 h
      cases hu; exact .inr (.inr (.inr (.inl ⟨f, stage, hmain, ht⟩)))
    · rename_i c hmain
      obtain ⟨t, ht, hu⟩ := andThen_eq_next.1 h
      cases hu; exact .inr (.inr (.inr (.inr ⟨c, hmain, ht⟩)))

/-- A step serves the next item with nothing in progress (or before the first reset, R262), else it is a step in
progress. -/
theorem step_eq_next {s t : State} (h : step s = .next t) :
    ((s.quiet || !s.up) = true ∧ fetchNext s = .next t) ∨ ((s.quiet || !s.up) = false ∧ inProgress s = .next t) := by
  unfold step turn at h
  split at h
  · rename_i fetch; exact .inl ⟨fetch, h⟩
  · rename_i busy; exact .inr ⟨by simpa using busy, h⟩

/-- What holds along a step: a property that neither the trace nor the schedule bears on, and that every item and every
agent's step keep, is kept by every step of the machine. -/
theorem step_preserves {P : State → Prop}
    (environment : ∀ s trace sched, P s → P { s with trace := trace, sched := sched })
    (item : ∀ i s t, P s → exec i s = .next t → P t) (agent : ∀ s u, P s → agentStep s = .next u → P u.st)
    {s t : State} (hs : P s) (h : step s = .next t) : P t := by
  have waiting (s o t) (hs : P s) (ho : o = .next t → P t) (h : serveWaiting s o = .next t) : P t := by
    obtain ⟨i, rest, -, hi⟩ | ⟨-, ht⟩ := serveWaiting_eq_next h
    · exact item i _ t (environment s rest s.sched hs) hi
    · exact ho ht
  have turns (s t) (hs : P s) (h : agentTurn s = .next t) : P t := by
    obtain ⟨u, hu, ⟨-, rfl⟩ | ⟨-, hw⟩⟩ := agentTurn_eq_next h
    · exact agent s u hs hu
    · have hP := agent s u hs hu
      exact waiting u.st _ t hP (fun he => by cases he; exact hP) hw
  obtain ⟨-, h⟩ | ⟨-, h⟩ := step_eq_next h
  · obtain ⟨-, rfl⟩ | ⟨i, rest, -, hi⟩ := fetchNext_eq_next h
    · exact hs
    · exact item i _ t (environment s rest s.sched hs) hi
  · obtain ⟨rest, ht | ⟨i, bytes, -, hi⟩⟩ := inProgress_eq_next h
    · exact turns _ t (environment s s.trace rest hs) ht
    · exact item i _ t (environment s bytes rest hs) hi

end Sys2Proof.Machine
end

/-! ## O48, O49, O50, O51, O53: what items and agents write (R20, R41, R46, R50) -/

section
namespace Sys2Proof.Machine

/-! ### The elements of each role -/

/-- R20: `t` is `s` but for what a TX producer writes, with what it may still read of the ring's indices (R72). -/
def TxProducerOnly (s t : State) : Prop :=
  t = { s with txbuf := t.txbuf, txh := t.txh, txie := t.txie, pastTxH := t.pastTxH, pastTxT := t.pastTxT,
               draws := t.draws }

/-- R20, R170: `t` is `s` but for what RECV writes: the tail of the RX ring, its own context and its result, with what
it may still read of the ring's indices (R72). -/
def RecvOnly (s t : State) : Prop :=
  t = { s with rxt := t.rxt, pastRxT := t.pastRxT, pastRxH := t.pastRxH, draws := t.draws, main := t.main,
               rsp := t.rsp }

theorem TxProducerOnly.refl (s : State) : TxProducerOnly s s := rfl

theorem TxProducerOnly.txTailRead (s : State) : TxProducerOnly s s.txTailRead := by
  unfold State.txTailRead; split <;> exact rfl

theorem RecvOnly.rxHeadRead (s : State) : RecvOnly s s.rxHeadRead := by
  unfold State.rxHeadRead; split <;> exact rfl

theorem TxProducerOnly.trans {s t u : State} (h : TxProducerOnly s t) (h' : TxProducerOnly t u) :
    TxProducerOnly s u := by
  rw [TxProducerOnly] at h; unfold TxProducerOnly; rw [h', h]

theorem RecvOnly.trans {s t u : State} (h : RecvOnly s t) (h' : RecvOnly t u) : RecvOnly s u := by
  rw [RecvOnly] at h; unfold RecvOnly; rw [h', h]

/-- A TXW step, whoever issues it, writes what a TX producer writes (R121 to R123). -/
theorem txwStep_txProducerOnly {c : TxwCtx} {s : State} {r : TxwResult × State} (h : txwStep c s = .next r) :
    TxProducerOnly s r.2 := by
  obtain ⟨r, t⟩ := r
  have read := TxProducerOnly.txTailRead s
  obtain ⟨-, -, -, -, rfl⟩ | ⟨-, -, -, -, rfl⟩ | ⟨-, -, -, -, rfl⟩ | ⟨_, _, -, -, -, -, rfl⟩ | ⟨_, _, -, -, -, -, rfl⟩ |
    ⟨_, _, -, -, -, rfl⟩ | ⟨_, _, -, -, -, rfl⟩ | ⟨_, _, -, -, rfl⟩ | ⟨_, _, -, -, rfl⟩ := txwStep_eq_next h
  exacts [read, read, read.trans rfl, read, read, read, rfl, rfl, rfl]

/-- So does the first step of a TXW. -/
theorem txwFirst_txProducerOnly {b : Byte} {s : State} {r : TxwResult × State} (h : txwFirst b s = .next r) :
    TxProducerOnly s r.2 := by
  obtain ⟨-, he⟩ | ⟨-, he⟩ := txwFirst_eq b s
  · rw [he] at h; cases h; exact .refl s
  · exact txwStep_txProducerOnly (he.symm.trans h)

/-- A RESEND step writes what a TX producer writes, and its own context (R20, R29). -/
theorem resendStep_txProducerOnly {c : ResendCtx} {s : State} {u : Turn} (h : resendStep c s = .next u) :
    ∃ t line, TxProducerOnly s t ∧ u.st = { t with line := line } := by
  obtain ⟨-, ⟨r, t⟩, hr, rfl⟩ | ⟨-, rfl⟩ := resendStep_eq_next h
  · have only : TxProducerOnly s t := by
      obtain ⟨-, -, first⟩ | ⟨_, -, next⟩ := resendTxw_eq_next hr
      · exact txwFirst_txProducerOnly first
      · exact txwStep_txProducerOnly next
    cases r with
    | done st => exact ⟨t, _, only, rfl⟩
    | going x held => exact ⟨t, _, only, rfl⟩
  · exact ⟨s, _, .refl s, rfl⟩

/-- The main side's own TXW adds its context and its result to what the step left. -/
theorem afterMainTxw_eq (r : TxwResult × State) :
    afterMainTxw r = { r.2 with main := (afterMainTxw r).main, rsp := (afterMainTxw r).rsp } := by
  unfold afterMainTxw; split <;> rfl

/-- After its byte is taken, a RECV writes its own context and its result. -/
theorem recvTaken_recvOnly {c : RecvCtx} {s t : State} (h : recvTaken c s = .next t) : RecvOnly s t := by
  obtain ⟨_, -, ⟨-, rfl⟩ | ⟨-, hcomplete⟩ | ⟨-, rfl⟩⟩ := recvTaken_eq_next h
  · exact rfl
  · obtain rfl | ⟨_, -, rfl⟩ := recvComplete_eq_next hcomplete <;> exact rfl
  · exact rfl

/-- A RECV step writes what RECV writes (R170, R171). -/
theorem recvStep_recvOnly {c : RecvCtx} {s t : State} (h : recvStep c s = .next t) : RecvOnly s t := by
  have read := RecvOnly.rxHeadRead s
  unfold recvStep at h
  split at h
  · cases h; exact read.trans rfl
  · obtain ⟨-, -, htaken⟩ := recvTake_eq_next h
    have moved : RecvOnly s.rxHeadRead (s.rxHeadRead.setRxT (nextSlot s.rxt s.cfg.rxCap)) := rfl
    exact (read.trans moved).trans (recvTaken_recvOnly htaken)
  · cases h
    unfold recvYield
    split <;> exact rfl

/-! ### The items -/

/-- R20: what the serving of an item leaves as it was, the clause of each element being the items that write it. -/
def ItemFrame (i : Instr) (s t : State) : Prop :=
  t.cfg = s.cfg ∧ t.kc = s.kc ∧ t.klen = s.klen ∧ t.epoch = s.epoch ∧
  ((∀ d, i ≠ .rxpush d) → t.rxbuf = s.rxbuf ∧ t.rxh = s.rxh ∧ t.wireIn = s.wireIn) ∧
  (i ≠ .rxr → t.rxt = s.rxt) ∧
  ((∀ b, i ≠ .txw b) → t.txbuf = s.txbuf ∧ t.txh = s.txh) ∧
  (i ≠ .txpop → t.txt = s.txt ∧ t.wireOut = s.wireOut) ∧
  ((∀ b, i ≠ .txw b) → i ≠ .txpop → t.txie = s.txie) ∧
  ((∀ f, i ≠ .store f) → t.kvalid = s.kvalid)

theorem txwBegun_itemFrame {b : Byte} {s : State} {r : TxwResult × State} (h : txwFirst b s = .next r) :
    ItemFrame (.txw b) s (afterMainTxw r) := by
  rw [afterMainTxw_eq, txwFirst_txProducerOnly h]; simp [ItemFrame]

theorem pushRx_itemFrame {d : Byte} {s t : State} (h : pushRx d s = .next t) : ItemFrame (.rxpush d) s t := by
  obtain ⟨-, rfl⟩ | ⟨-, -, rfl⟩ := pushRx_eq_next h <;> simp [ItemFrame]

theorem popTx_itemFrame {s t : State} (h : popTx s = .next t) : ItemFrame .txpop s t := by
  obtain ⟨-, rfl⟩ | ⟨-, -, rfl⟩ := popTx_eq_next h <;> simp [ItemFrame]

/-- Every effect of an item but a reset is within its frame. -/
theorem ItemEffect.frame {i : Instr} {s t : State} (h : ItemEffect s i t) (hi : i ≠ .rst) : ItemFrame i s t := by
  cases h with
  | reset => exact absurd rfl hi
  | txwBegun _ first => exact txwBegun_itemFrame first
  | pushed push => exact pushRx_itemFrame push
  | popped pop => exact popTx_itemFrame pop
  | _ => simp [ItemFrame, arrive]

/-- R46: no item writes a parameter. -/
theorem ItemEffect.cfg {i : Instr} {s t : State} (h : ItemEffect s i t) : t.cfg = s.cfg := by
  by_cases hi : i = .rst
  · subst hi; cases h <;> simp [arrive]
  · exact (h.frame hi).1

/-- R41: no item but the two that drive it changes the level of `abort`. -/
theorem ItemEffect.abort {i : Instr} {s t : State} (h : ItemEffect s i t) (low : i ≠ .abort0) (high : i ≠ .abort1) :
    t.abort = s.abort := by
  cases h with
  | abortLow => exact absurd rfl low
  | abortHigh => exact absurd rfl high
  | txwBegun _ first => rw [afterMainTxw_eq, txwFirst_txProducerOnly first]
  | pushed push => obtain ⟨-, rfl⟩ | ⟨-, -, rfl⟩ := pushRx_eq_next push <;> simp
  | popped pop => obtain ⟨-, rfl⟩ | ⟨-, -, rfl⟩ := popTx_eq_next pop <;> simp
  | _ => simp [arrive]

/-- Settles O50: every effect an item can have is within its frame. -/
theorem itemsWriteOnlyTheirElements : Obligations.ItemsWriteOnlyTheirElements := by
  unfold Obligations.ItemsWriteOnlyTheirElements
  exact fun i s t h hi => (exec_effect h).frame hi

/-- Settles O48: the two items that drive the level are one assignment each, and no other effect writes it. -/
theorem abortChangesOnlyTheLevel : Obligations.AbortChangesOnlyTheLevel := by
  unfold Obligations.AbortChangesOnlyTheLevel
  exact ⟨fun s => ⟨rfl, rfl⟩, fun i s t h low high => (exec_effect h).abort low high⟩

/-- Settles O49: `afterRst` has the values of the reset table, and an array with no cell written holds no value. -/
theorem resetLeavesTheStatedValues : Obligations.ResetLeavesTheStatedValues := by
  unfold Obligations.ResetLeavesTheStatedValues
  intro s
  refine ⟨s.afterRst, rfl, ?_⟩
  simp

/-! ### The agents in progress -/

/-- With a RECV in flight and the line side idle, the agent's step is RECV's. -/
theorem agentStep_recv {s : State} {u : Turn} {c : RecvCtx} (line : s.line = .idle) (main : s.main = .recv c)
    (h : agentStep s = .next u) : recvStep c s = .next u.st := by
  simp only [agentStep, line, main, progress, andThen_eq_next] at h
  obtain ⟨t, ht, hu⟩ := h
  cases hu; exact ht

/-- With a STORE in flight and the line side idle, the agent's step is STORE's. -/
theorem agentStep_store {s : State} {u : Turn} {f : List Byte} {stage : StoreStage} (line : s.line = .idle)
    (main : s.main = .store f stage) (h : agentStep s = .next u) : storeStep f stage s = .next u.st := by
  simp only [agentStep, line, main, progress, andThen_eq_next] at h
  obtain ⟨t, ht, hu⟩ := h
  cases hu; exact ht

/-- With a RESEND in progress, the agent's step is RESEND's (R70 item 3). -/
theorem agentStep_resend {s : State} {u : Turn} {c : ResendCtx} (line : s.line = .resend c)
    (h : agentStep s = .next u) : resendStep c s = .next u := by
  simpa only [agentStep, line] using h

/-- Settles O51: each agent's step writes the elements of its role, and the ones named are not among them. -/
theorem agentsWriteOnlyTheirElements : Obligations.AgentsWriteOnlyTheirElements := by
  unfold Obligations.AgentsWriteOnlyTheirElements
  intro s u h
  refine ⟨fun c line main => ?recv, fun f stage line main => ?store, fun c line => ?resend⟩
  case recv =>
    rw [recvStep_recvOnly (agentStep_recv line main h)]; simp
  case store =>
    obtain ⟨_, -, -, ht⟩ | ⟨-, ht⟩ | ⟨-, ht⟩ := storeStep_eq_next (agentStep_store line main h) <;> simp [ht]
  case resend =>
    obtain ⟨t, _, only, ht⟩ := resendStep_txProducerOnly (agentStep_resend line h)
    rw [ht, only]; simp

/-- R46: no agent's step writes a parameter. -/
theorem agentStep_cfg {s : State} {u : Turn} (h : agentStep s = .next u) : u.st.cfg = s.cfg := by
  obtain ⟨c, -, hr⟩ | ⟨-, ⟨-, rfl⟩ | ⟨i, -, hi⟩ | ⟨c, r, -, hr, hu⟩ | ⟨f, stage, -, hs⟩ | ⟨c, -, hr⟩⟩ :=
    agentStep_eq_next h
  · obtain ⟨t, _, only, ht⟩ := resendStep_txProducerOnly hr
    rw [ht, only]
  · rfl
  · exact (exec_effect hi).cfg
  · rw [hu, afterMainTxw_eq, txwStep_txProducerOnly hr]
  · obtain ⟨_, -, -, ht⟩ | ⟨-, ht⟩ | ⟨-, ht⟩ := storeStep_eq_next hs <;> simp [ht]
  · rw [recvStep_recvOnly hr]

/-- Settles O53: neither an item nor an agent's step writes a parameter. -/
theorem stepKeepsParameters : Obligations.StepKeepsParameters := by
  unfold Obligations.StepKeepsParameters
  intro s t
  refine step_preserves (P := fun u => u.cfg = s.cfg) ?environment ?item ?agent rfl
  case environment => exact fun _ _ _ hu => hu
  case item => exact fun _ _ _ hu hi => (exec_effect hi).cfg.trans hu
  case agent => exact fun _ _ hu ha => (agentStep_cfg ha).trans hu

end Sys2Proof.Machine
end

/-! ## O54, O55: the invariant of the block at reset and along every step (R23, R25, R62) -/

section
namespace Sys2Proof.Machine

/-! ### One ring -/

/-- A ring (R23, R60, R72): its indices and their readable earlier values in range, its array canonical and within its
size. -/
structure RingSound (cap head tail : Nat) (pastHead pastTail : List Nat) (buf : Mem) : Prop where
  head : head < cap
  tail : tail < cap
  pastHead : ∀ v ∈ pastHead, v < cap
  pastTail : ∀ v ∈ pastTail, v < cap
  wf : Mem.wf buf
  below : Mem.below buf cap

namespace RingSound

variable {cap hd tl v : Nat} {pastH pastT : List Nat} {buf : Mem}

theorem cleared (h : 0 < cap) : RingSound cap 0 0 [] [] [] :=
  ⟨h, h, by simp, by simp, List.Pairwise.nil, by simp [Mem.below]⟩

theorem setHead (h : RingSound cap hd tl pastH pastT buf) (s : State) (hv : v < cap) :
    RingSound cap v tl (remember s pastH hd) pastT buf :=
  { h with
    head := hv
    pastHead := fun _ hw => (mem_remember hw).elim (h.pastHead _) fun e => e ▸ h.head }

theorem setTail (h : RingSound cap hd tl pastH pastT buf) (s : State) (hv : v < cap) :
    RingSound cap hd v pastH (remember s pastT tl) buf :=
  { h with
    tail := hv
    pastTail := fun _ hw => (mem_remember hw).elim (h.pastTail _) fun e => e ▸ h.tail }

theorem write (h : RingSound cap hd tl pastH pastT buf) (hv : v < cap) (b : Byte) :
    RingSound cap hd tl pastH pastT (Mem.write buf v b) :=
  { h with wf := Mem.wf_write h.wf v b, below := Mem.below_write h.below hv b }

theorem forgetHeads (h : RingSound cap hd tl pastH pastT buf) : RingSound cap hd tl [] pastT buf :=
  { h with pastHead := by simp }

theorem forgetTails (h : RingSound cap hd tl pastH pastT buf) : RingSound cap hd tl pastH [] buf :=
  { h with pastTail := by simp }

end RingSound

/-! ### The stored elements -/

/-- The invariant but for the operations in flight: the parameters, the two rings and the cache (R5, R23, R25). -/
structure StoredSound (s : State) : Prop where
  params : s.cfg.wf = true
  rx : RingSound s.cfg.rxCap s.rxh s.rxt s.pastRxH s.pastRxT s.rxbuf
  tx : RingSound s.cfg.txCap s.txh s.txt s.pastTxH s.pastTxT s.txbuf
  kcWf : Mem.wf s.kc
  kcBelow : Mem.below s.kc s.cfg.frameCap
  klen : s.klen ≤ s.cfg.frameCap
  written : s.kvalid = true → ∀ k, k < s.klen → (Mem.read? s.kc k).isSome

/-- The invariant of the block: what is stored and what is in flight on either side. -/
theorem blockInv_iff (s : State) : BlockInv s ↔ StoredSound s ∧ MainSound s ∧ LineSound s := by
  constructor
  · rintro ⟨params, ⟨rxh, rxt, txh, txt⟩, ⟨prt, prh, ptt, pth⟩, ⟨rw, tw, kw, rb, tb, kb⟩, ⟨klen, written⟩, main, line⟩
    exact ⟨⟨params, ⟨rxh, rxt, prh, prt, rw, rb⟩, ⟨txh, txt, pth, ptt, tw, tb⟩, kw, kb, klen, written⟩, main, line⟩
  · rintro ⟨⟨params, rx, tx, kw, kb, klen, written⟩, main, line⟩
    exact ⟨params, ⟨rx.head, rx.tail, tx.head, tx.tail⟩, ⟨rx.pastTail, rx.pastHead, tx.pastTail, tx.pastHead⟩,
      ⟨rx.wf, tx.wf, kw, rx.below, tx.below, kb⟩, ⟨klen, written⟩, main, line⟩

namespace StoredSound

variable {s : State}

theorem txTailRead (h : StoredSound s) : StoredSound s.txTailRead := by
  unfold State.txTailRead; split
  · exact h
  · exact { h with tx := h.tx.forgetTails }

theorem txHeadRead (h : StoredSound s) : StoredSound s.txHeadRead := by
  unfold State.txHeadRead; split
  · exact h
  · exact { h with tx := h.tx.forgetHeads }

theorem rxTailRead (h : StoredSound s) : StoredSound s.rxTailRead := by
  unfold State.rxTailRead; split
  · exact h
  · exact { h with rx := h.rx.forgetTails }

theorem rxHeadRead (h : StoredSound s) : StoredSound s.rxHeadRead := by
  unfold State.rxHeadRead; split
  · exact h
  · exact { h with rx := h.rx.forgetHeads }

theorem setTxH (h : StoredSound s) {v : Nat} (hv : v < s.cfg.txCap) : StoredSound (s.setTxH v) :=
  { h with tx := h.tx.setHead s hv }

theorem setTxT (h : StoredSound s) {v : Nat} (hv : v < s.cfg.txCap) : StoredSound (s.setTxT v) :=
  { h with tx := h.tx.setTail s hv }

theorem setRxH (h : StoredSound s) {v : Nat} (hv : v < s.cfg.rxCap) : StoredSound (s.setRxH v) :=
  { h with rx := h.rx.setHead s hv }

theorem setRxT (h : StoredSound s) {v : Nat} (hv : v < s.cfg.rxCap) : StoredSound (s.setRxT v) :=
  { h with rx := h.rx.setTail s hv }

theorem finish (h : StoredSound s) (st : Status) (v : RspValue) : StoredSound (s.finish st v) := { h with }

theorem afterRst (h : StoredSound s) : StoredSound s.afterRst :=
  { h with
    rx := .cleared (Nat.succ_pos _)
    tx := .cleared (Nat.succ_pos _)
    kcWf := List.Pairwise.nil
    kcBelow := by simp [Mem.below]
    klen := Nat.zero_le _
    written := by simp }

theorem nextTx_lt (x : Nat) : nextSlot x s.cfg.txCap < s.cfg.txCap := nextSlot_lt (Nat.succ_pos _)
theorem nextRx_lt (x : Nat) : nextSlot x s.cfg.rxCap < s.cfg.rxCap := nextSlot_lt (Nat.succ_pos _)

end StoredSound

/-! ### What a step of the other side leaves of an operation in flight -/

theorem TxwSound.of_cfg {s t : State} {c : TxwCtx} (h : TxwSound s c) (cfg : t.cfg = s.cfg) : TxwSound t c := by
  unfold TxwSound at *; rwa [cfg]

theorem RecvSound.of_ring {s t : State} {c : RecvCtx} (h : RecvSound s c) (cfg : t.cfg = s.cfg)
    (ring : s.cfg.xsideView = .exact → s.rxh ≠ s.rxt → t.rxh ≠ t.rxt) : RecvSound t c :=
  { h with nonempty := fun exact take => by rw [cfg] at exact; exact ring exact (h.nonempty exact take) }

/-- The main-side operation in flight stays sound while its context, the parameters and the cache stay, and no byte a
RECV found in the RX ring is lost. -/
theorem MainSound.of_same {s t : State} (h : MainSound s) (main : t.main = s.main) (cfg : t.cfg = s.cfg)
    (kc : t.kc = s.kc) (klen : t.klen = s.klen) (kvalid : t.kvalid = s.kvalid)
    (ring : s.cfg.xsideView = .exact → s.rxh ≠ s.rxt → t.rxh ≠ t.rxt) : MainSound t := by
  unfold MainSound at *
  rw [main]
  cases hm : s.main with
  | idle => trivial
  | issued i => simpa [hm] using h
  | txw c => rw [hm] at h; exact h.of_cfg cfg
  | store f stage => rw [hm] at h; simpa only [StoreSound, cfg, kc, klen, kvalid] using h
  | recv c => rw [hm] at h; exact h.of_ring cfg ring

/-- The RESEND in progress stays sound while its context, the parameters and the cache's flags stay. -/
theorem LineSound.of_same {s t : State} (h : LineSound s) (line : t.line = s.line) (cfg : t.cfg = s.cfg)
    (klen : t.klen = s.klen) (kvalid : t.kvalid = s.kvalid) : LineSound t := by
  unfold LineSound at *
  rw [line]
  cases hl : s.line with
  | idle => trivial
  | resend c =>
    simp only [hl] at h
    obtain ⟨ri, rlen, valid, tx⟩ := h
    exact ⟨ri, by rw [klen]; exact rlen, by rw [kvalid]; exact valid, fun x hx => (tx x hx).of_cfg cfg⟩

theorem MainSound.idle {s : State} (h : s.main = .idle) : MainSound s := by simp [MainSound, h]

theorem LineSound.idle {s : State} (h : s.line = .idle) : LineSound s := by simp [LineSound, h]

/-! ### TXW (R121 to R123) -/

/-- The context a TXW step leaves in flight, if it leaves one, is sound. -/
def TxwResult.Sound (s : State) (r : TxwResult) : Prop := ∀ c held, r = .going c held → TxwSound s c

theorem TxwResult.Sound.of_done (s : State) (st : Status) : TxwResult.Sound s (.done st) := fun _ _ h => nomatch h

theorem TxwResult.Sound.of_going {s : State} {c : TxwCtx} {held : Bool} (h : TxwSound s c) :
    TxwResult.Sound s (.going c held) := fun _ _ e => by cases e; exact h

theorem StoredSound.committed {s : State} (h : StoredSound s) (b : Byte) : StoredSound (s.committed b) :=
  { h with tx := (h.tx.write h.tx.head b).setHead s (StoredSound.nextTx_lt _) }

/-- A TXW step keeps what is stored sound, and the context it leaves. -/
theorem txwStep_sound {s : State} {c : TxwCtx} {r : TxwResult × State} (h : StoredSound s) (hc : TxwSound s c)
    (hr : txwStep c s = .next r) : StoredSound r.2 ∧ r.1.Sound r.2 := by
  obtain ⟨r, t⟩ := r
  have read := h.txTailRead
  have cfg := txTailRead_cfg s
  obtain ⟨-, -, -, rfl, rfl⟩ | ⟨-, -, -, rfl, rfl⟩ | ⟨-, -, -, rfl, rfl⟩ | ⟨_, _, -, -, -, rfl, rfl⟩ |
    ⟨_, _, -, -, -, rfl, rfl⟩ | ⟨wh, wn, stage, -, rfl, rfl⟩ | ⟨wh, wn, stage, inRange, rfl, rfl⟩ |
    ⟨wh, wn, stage, rfl, rfl⟩ | ⟨_, _, -, rfl, rfl⟩ := txwStep_eq_next hr
  · exact ⟨read, .of_done _ _⟩
  · exact ⟨read, .of_going (hc.of_cfg cfg)⟩
  · exact ⟨read.committed _, .of_done _ _⟩
  · exact ⟨read, .of_done _ _⟩
  · exact ⟨read, .of_going (hc.of_cfg cfg)⟩
  · rw [TxwSound, stage] at hc
    exact ⟨read, .of_going (TxwSound.of_cfg (s := s) hc cfg)⟩
  · rw [TxwSound, stage] at hc
    exact ⟨{ h with tx := h.tx.write inRange _ }, .of_going hc⟩
  · rw [TxwSound, stage] at hc
    obtain ⟨-, -, hwn⟩ := id hc
    exact ⟨h.setTxH (hwn ▸ StoredSound.nextTx_lt wh), .of_going hc⟩
  · exact ⟨{ h with }, .of_done _ _⟩

/-- So does the first step of a TXW. -/
theorem txwFirst_sound {s : State} {b : Byte} {r : TxwResult × State} (h : StoredSound s)
    (hr : txwFirst b s = .next r) : StoredSound r.2 ∧ r.1.Sound r.2 := by
  obtain ⟨split, he⟩ | ⟨oneStep, he⟩ := txwFirst_eq b s
  · rw [he] at hr; cases hr
    exact ⟨h, .of_going ⟨split, h.tx.head, rfl⟩⟩
  · exact txwStep_sound (c := ⟨b, .wait⟩) h oneStep (he.symm.trans hr)

/-- After a TXW step of the main side's own, with the line side idle. -/
theorem afterMainTxw_sound {s : State} {r : TxwResult × State} (h : StoredSound r.2) (hr : r.1.Sound r.2)
    (only : TxProducerOnly s r.2) (line : s.line = .idle) : BlockInv (afterMainTxw r) := by
  obtain ⟨r, t⟩ := r
  have free : t.line = .idle := (congrArg State.line only).trans line
  rw [blockInv_iff]
  cases r with
  | done st => exact ⟨h.finish _ _, .idle rfl, .idle free⟩
  | going c held => exact ⟨{ h with }, (hr c held rfl).of_cfg rfl, .idle free⟩

/-! ### STORE (R191) -/

/-- The stage that comes when the first `si` bytes of a frame are copied is sound. -/
theorem storeStage_sound {s : State} {f : List Byte} {si : Nat} (fits : f.length ≤ s.cfg.frameCap)
    (invalid : s.kvalid = false) (le : si ≤ f.length) (copied : Mem.holds s.kc si f) :
    StoreSound s f (storeStage f si) := by
  unfold storeStage
  split
  · rename_i lt; exact ⟨fits, invalid, lt, copied⟩
  · rename_i nlt
    obtain rfl : si = f.length := by omega
    exact ⟨fits, invalid, copied⟩

/-- A STORE step keeps the invariant: the bytes copied grow by one, and validity comes only with all of them. -/
theorem storeStep_sound {s t : State} {f : List Byte} {stage : StoreStage} (h : StoredSound s)
    (hs : StoreSound s f stage) (line : s.line = .idle) (ht : storeStep f stage s = .next t) : BlockInv t := by
  rw [blockInv_iff]
  obtain ⟨fits, invalid, hstage⟩ := hs
  obtain ⟨si, rfl, inRange, rfl⟩ | ⟨rfl, rfl⟩ | ⟨rfl, rfl⟩ := storeStep_eq_next ht
  · obtain ⟨lt, copied⟩ := hstage
    refine ⟨{ h with
      kcWf := Mem.wf_write h.kcWf _ _
      kcBelow := Mem.below_write h.kcBelow inRange _
      written := fun valid => by simp [invalid] at valid }, ?_, .idle line⟩
    exact storeStage_sound fits invalid lt (Mem.holds_write copied)
  · exact ⟨{ h with klen := fits, written := fun valid => by simp [invalid] at valid }, ⟨fits, invalid, hstage, rfl⟩,
      .idle line⟩
  · obtain ⟨copied, klen⟩ := hstage
    exact ⟨{ h with written := fun _ k hk => by simp [copied k (klen ▸ hk)] }, .idle rfl, .idle line⟩

/-! ### RECV (R171 to R178) -/

/-- The context with one byte more, stored at `RB[CNT]` and counted (R171). -/
def RecvCtx.stored (c : RecvCtx) (b : Byte) : RecvCtx :=
  { c with rb := Mem.write c.rb c.cnt.toNat b, cnt := c.cnt + 1#9 }

/-- The context after the dispatch of R172, made when the second byte is counted. -/
def RecvCtx.dispatched (s : State) (c : RecvCtx) : RecvCtx := if c.cnt = 2#9 then c.dispatch s else c

/-- What the dispatch can do (R172): `EXP` and `PLEN` are set for a short frame, and nothing else. -/
theorem RecvCtx.dispatch_eq (s : State) (c : RecvCtx) :
    (c.byteAt s 0 = Config.tagShort ∧
        c.dispatch s = { c with exp := some ((c.byteAt s 1).setWidth 9 + 5#9), plen := c.byteAt s 1 }) ∨
      (c.byteAt s 0 ≠ Config.tagShort ∧ c.dispatch s = c) := by
  unfold RecvCtx.dispatch
  split
  · rename_i short; exact .inl ⟨short, rfl⟩
  · rename_i other; exact .inr ⟨other, by split <;> rfl⟩

/-- The dispatch after a byte is counted sets `EXP` and `PLEN` for a short frame at its second byte, and nothing else.
-/
theorem RecvCtx.dispatched_cases (s : State) (c : RecvCtx) :
    (c.cnt = 2#9 ∧ c.byteAt s 0 = Config.tagShort ∧
        c.dispatched s = { c with exp := some ((c.byteAt s 1).setWidth 9 + 5#9), plen := c.byteAt s 1 }) ∨
      c.dispatched s = c := by
  unfold RecvCtx.dispatched
  split
  · rename_i second
    obtain ⟨short, he⟩ | ⟨-, he⟩ := c.dispatch_eq s
    · exact .inl ⟨second, short, he⟩
    · exact .inr he
  · exact .inr rfl

/-- The end-tests let a RECV go on only with room in the buffer (R174). -/
theorem RecvCtx.cnt_of_more {s : State} {c : RecvCtx} (h : c.endTest s = .more) : c.cnt.toNat < 256 := by
  have notFull : c.bufferFull = false := by
    unfold RecvCtx.endTest at h
    split at h <;> split at h <;> simp_all
  exact Nat.lt_of_not_le (of_decide_eq_false notFull)

theorem RecvCtx.stored_cnt {c : RecvCtx} (b : Byte) (h : c.cnt.toNat ≤ 255) :
    (c.stored b).cnt.toNat = c.cnt.toNat + 1 := by
  simp [RecvCtx.stored]; omega

/-- A cell that holds a byte holds what it reads as. -/
theorem read?_of_isSome {s : State} {arr : Config.ArrayId} {m : Mem} {i : Nat} (h : (Mem.read? m i).isSome) :
    Mem.read? m i = some (cellValue s arr m i) := by
  obtain ⟨b, hb⟩ := Option.isSome_iff_exists.1 h
  rw [hb, cellValue_of_read hb]

/-- The bytes counted are there, the one just stored among them. -/
theorem RecvSound.stored_held {s : State} {c : RecvCtx} (h : RecvSound s c) (b : Byte) {k : Nat}
    (hk : k < (c.stored b).cnt.toNat) : (Mem.read? (c.stored b).rb k).isSome := by
  rw [RecvCtx.stored_cnt b h.cnt] at hk
  by_cases last : k = c.cnt.toNat
  · simp [RecvCtx.stored, last]
  · exact Mem.isSome_write _ _ (h.held k (by omega))

/-- `EXP` after a byte is stored and dispatched is as R172 sets it: before the second byte it is not set, at the
second byte the dispatch sets it from the two bytes there, and later neither of these bytes is written again. -/
theorem RecvSound.dispatched_exp {s t : State} {c : RecvCtx} {b : Byte} (h : RecvSound s c) {e : BitVec 9}
    (he : ((c.stored b).dispatched t).exp = some e) :
    2 ≤ (c.stored b).cnt.toNat ∧ Mem.read? (c.stored b).rb 0 = some Config.tagShort ∧
      Mem.read? (c.stored b).rb 1 = some ((c.stored b).dispatched t).plen ∧
      e.toNat = ((c.stored b).dispatched t).plen.toNat + 5 := by
  obtain ⟨second, short, hd⟩ | hd := (c.stored b).dispatched_cases t
  · have two : (c.stored b).cnt.toNat = 2 := by rw [second]; rfl
    have read (k : Nat) (hk : k < 2) : Mem.read? (c.stored b).rb k = some ((c.stored b).byteAt t k) :=
      read?_of_isSome (h.stored_held b (by omega))
    rw [hd] at he ⊢
    cases he
    refine ⟨two.ge, short ▸ read 0 (by omega), read 1 (by omega), ?_⟩
    simp; omega
  · rw [hd] at he ⊢
    obtain ⟨ge, tag, plen, length⟩ := h.expShort e he
    refine ⟨by rw [RecvCtx.stored_cnt b h.cnt]; omega, ?_, ?_, length⟩
    · exact (Mem.read?_write_other _ _ (by omega)).trans tag
    · exact (Mem.read?_write_other _ _ (by omega)).trans plen

/-- A RECV that goes on after a take is sound (R171, R172, R174). -/
theorem RecvSound.taken {s t : State} {c : RecvCtx} {b : Byte} (h : RecvSound s c)
    (more : ((c.stored b).dispatched t).endTest t = .more) :
    RecvSound t { (c.stored b).dispatched t with stage := .poll } := by
  have room := RecvCtx.cnt_of_more more
  have expEarly (early : (c.stored b).cnt.toNat < 2) : ((c.stored b).dispatched t).exp = none := by
    by_contra set
    obtain ⟨e, he⟩ := Option.ne_none_iff_exists'.1 set
    have := (h.dispatched_exp he).1
    omega
  have expShort := fun e => h.dispatched_exp (t := t) (b := b) (e := e)
  have same : ((c.stored b).dispatched t).rb = (c.stored b).rb ∧ ((c.stored b).dispatched t).cnt = (c.stored b).cnt ∧
      ((c.stored b).dispatched t).round = c.round := by
    obtain ⟨-, -, hd⟩ | hd := (c.stored b).dispatched_cases t <;> rw [hd] <;> exact ⟨rfl, rfl, rfl⟩
  obtain ⟨rb, cnt, round⟩ := same
  rw [cnt] at room
  have inRange : c.cnt.toNat < Config.reasmCap := Nat.lt_succ_of_le h.cnt
  constructor <;> simp only [rb, cnt, round]
  case rbWf => exact Mem.wf_write h.rbWf _ _
  case rbBelow => exact Mem.below_write h.rbBelow inRange _
  case cnt => omega
  case round => exact h.round
  case held => exact fun k hk => h.stored_held b hk
  case expEarly => exact expEarly
  case expShort => exact expShort
  case nonempty => exact fun _ hp => nomatch hp

theorem Ready.lineIdle {s : State} (h : Ready s) : s.line = .idle := h.2.2

/-- With nothing in flight on either side, the invariant is that of what is stored. -/
theorem StoredSound.blockInv_of_idle {s : State} (h : StoredSound s) (main : s.main = .idle) (line : s.line = .idle) :
    BlockInv s := (blockInv_iff s).2 ⟨h, .idle main, .idle line⟩

/-- With the line side idle, a RECV in flight asks for its context to be sound. -/
theorem StoredSound.blockInv_of_recv {s : State} {c : RecvCtx} (h : StoredSound s) (hc : RecvSound s c)
    (line : s.line = .idle) : BlockInv { s with main := .recv c } :=
  (blockInv_iff _).2 ⟨{ h with }, hc.of_ring rfl fun _ => id, .idle line⟩

/-- RECV.poll: a take follows only where the ring is not empty. -/
theorem recvPoll_sound {s : State} {c : RecvCtx} (h : StoredSound s) (hc : RecvSound s c) (line : s.line = .idle) :
    BlockInv (recvPoll c s) := by
  refine h.rxHeadRead.blockInv_of_recv { hc with nonempty := ?_ } (by simpa using line)
  intro exactView take empty
  simp only [rxHeadRead_cfg, rxHeadRead_rxh, rxHeadRead_rxt] at exactView empty
  have seen : s.rxHeadSeen = s.rxt := by simpa [State.rxHeadSeen, exactView] using empty
  have none : occ s.rxHeadSeen s.rxt s.cfg.rxCap = 0 := by rw [seen, occ_eq_zero h.rx.tail h.rx.tail]
  simp [none] at take

/-- RECV.yield: the tenth round is the last (R178). -/
theorem recvYield_sound {s : State} {c : RecvCtx} (h : StoredSound s) (hc : RecvSound s c) (line : s.line = .idle) :
    BlockInv (recvYield c s) := by
  unfold recvYield
  split
  · exact (h.finish _ _).blockInv_of_idle rfl line
  · rename_i notLast
    have round : (c.round + 1#4).toNat ≤ 9 := by
      have le := hc.round
      simp only [Config.retryRounds] at notLast
      simp only [BitVec.toNat_add, BitVec.toNat_ofNat] at notLast ⊢
      omega
    exact h.blockInv_of_recv { hc with round := round, nonempty := fun _ hp => nomatch hp } line

/-- RECV.take (R171): the context that goes on is sound, and every end of it leaves nothing in flight. -/
theorem recvTake_sound {s t : State} {c : RecvCtx} (h : StoredSound s) (hc : RecvSound s c) (line : s.line = .idle)
    (ht : recvTake c s = .next t) : BlockInv t := by
  obtain ⟨-, -, htaken⟩ := recvTake_eq_next ht
  have moved : StoredSound (s.rxHeadRead.setRxT (nextSlot s.rxt s.cfg.rxCap)) :=
    h.rxHeadRead.setRxT (by simpa using StoredSound.nextRx_lt s.rxt)
  have free : (s.rxHeadRead.setRxT (nextSlot s.rxt s.cfg.rxCap)).line = .idle := by simpa using line
  obtain ⟨c1, hc1, ⟨-, rfl⟩ | ⟨-, hcomplete⟩ | ⟨more, rfl⟩⟩ := recvTaken_eq_next htaken
  · exact (moved.finish _ _).blockInv_of_idle rfl free
  · obtain rfl | ⟨_, -, rfl⟩ := recvComplete_eq_next hcomplete <;> exact (moved.finish _ _).blockInv_of_idle rfl free
  · subst hc1
    exact moved.blockInv_of_recv (hc.taken more) free

/-- A RECV step keeps the invariant. -/
theorem recvStep_sound {s t : State} {c : RecvCtx} (h : StoredSound s) (hc : RecvSound s c) (line : s.line = .idle)
    (ht : recvStep c s = .next t) : BlockInv t := by
  unfold recvStep at ht
  split at ht
  · cases ht; exact recvPoll_sound h hc line
  · exact recvTake_sound h hc line ht
  · cases ht; exact recvYield_sound h hc line

/-- V0 of RECV: nothing is counted and nothing is set (R171). -/
theorem freshRecv_sound (s : State) : RecvSound s freshRecv where
  rbWf := List.Pairwise.nil
  rbBelow := by simp [freshRecv, Mem.below]
  cnt := by decide
  round := by decide
  held := fun k hk => absurd hk (Nat.not_lt_zero k)
  expEarly := fun _ => rfl
  expShort := fun _ he => nomatch he
  nonempty := fun _ hp => nomatch hp

/-! ### RESEND (R194 to R196) -/

/-- The RESEND context after `ri` bytes is sound: another byte of the cached frame, or nothing in progress. -/
theorem resendAt_sound {s : State} {rlen ri : Nat} (length : rlen = s.klen) (valid : s.kvalid = true)
    (line : s.line = resendAt rlen ri) : LineSound s := by
  by_cases lt : ri < rlen
  · rw [resendAt, if_pos lt] at line
    rw [LineSound, line]
    exact ⟨lt, length, valid, fun _ hx => nomatch hx⟩
  · rw [resendAt, if_neg lt] at line
    exact .idle line

/-- A RESEND step keeps the invariant: it is a step of a TX producer, and its own context stays within the cached
frame. -/
theorem resendStep_sound {s : State} {c : ResendCtx} {u : Turn} (h : BlockInv s) (line : s.line = .resend c)
    (hu : resendStep c s = .next u) : BlockInv u.st := by
  obtain ⟨stored, main, hline⟩ := (blockInv_iff s).1 h
  simp only [LineSound, line] at hline
  obtain ⟨lt, length, valid, tx⟩ := hline
  obtain ⟨-, ⟨r, t⟩, hr, rfl⟩ | ⟨nlt, -⟩ := resendStep_eq_next hu
  · obtain ⟨⟨storedT, sound⟩, only⟩ : (StoredSound t ∧ r.Sound t) ∧ TxProducerOnly s t := by
      obtain ⟨-, -, first⟩ | ⟨x, hx, next⟩ := resendTxw_eq_next hr
      · exact ⟨txwFirst_sound stored first, txwFirst_txProducerOnly first⟩
      · exact ⟨txwStep_sound stored (tx x hx) next, txwStep_txProducerOnly next⟩
    have mainT : MainSound t := by
      refine main.of_same ?_ ?_ ?_ ?_ ?_ ?_ <;> rw [only]
      exact fun _ => id
    have lengthT : c.rlen = t.klen := by rw [only]; exact length
    have validT : t.kvalid = true := by rw [only]; exact valid
    rw [blockInv_iff]
    cases r with
    | done st =>
      exact ⟨{ storedT with }, mainT.of_same rfl rfl rfl rfl rfl fun _ => id, resendAt_sound lengthT validT rfl⟩
    | going x held =>
      refine ⟨{ storedT with }, mainT.of_same rfl rfl rfl rfl rfl fun _ => id, lt, lengthT, validT, ?_⟩
      rintro _ ⟨⟩
      exact (sound x held rfl).of_cfg rfl
  · exact absurd lt nlt

/-! ### The items -/

/-- With the exact view, a push into a ring with room leaves it not empty (R128). -/
theorem head_ne_tail_of_push {s : State} (room : nextSlot s.rxh s.cfg.rxCap ≠ s.rxTailSeen)
    (view : s.cfg.xsideView = .exact) : nextSlot s.rxh s.cfg.rxCap ≠ s.rxt := by
  simpa [State.rxTailSeen, view] using room

/-- RXPUSH keeps the invariant. -/
theorem pushRx_sound {s t : State} {d : Byte} (h : BlockInv s) (ht : pushRx d s = .next t) : BlockInv t := by
  obtain ⟨stored, main, line⟩ := (blockInv_iff s).1 h
  have read := stored.rxTailRead
  rw [blockInv_iff]
  obtain ⟨-, rfl⟩ | ⟨room, inRange, rfl⟩ := pushRx_eq_next ht
  · refine ⟨{ read with }, main.of_same ?_ ?_ ?_ ?_ ?_ ?_, line.of_same ?_ ?_ ?_ ?_⟩ <;> simp
  · have written : RingSound s.cfg.rxCap s.rxh s.rxt s.rxTailRead.pastRxH s.rxTailRead.pastRxT
        (Mem.write s.rxbuf s.rxh d) := by simpa using read.rx.write (v := s.rxh) (by simpa using inRange) d
    have pushed := written.setHead s.rxTailRead (StoredSound.nextRx_lt s.rxh)
    refine ⟨{ read with rx := by simpa [remember] using pushed }, main.of_same ?_ ?_ ?_ ?_ ?_ fun view _ => ?ring,
      line.of_same ?_ ?_ ?_ ?_⟩
    case ring => simpa using head_ne_tail_of_push room view
    all_goals simp

/-- TXPOP keeps the invariant. -/
theorem popTx_sound {s t : State} (h : BlockInv s) (ht : popTx s = .next t) : BlockInv t := by
  obtain ⟨stored, main, line⟩ := (blockInv_iff s).1 h
  have read := stored.txHeadRead
  have popped := read.setTxT (v := nextSlot s.txt s.cfg.txCap) (by simpa using StoredSound.nextTx_lt s.txt)
  rw [blockInv_iff]
  obtain ⟨-, rfl⟩ | ⟨-, -, rfl⟩ := popTx_eq_next ht
  · refine ⟨{ read with }, main.of_same ?_ ?_ ?_ ?_ ?_ ?_, line.of_same ?_ ?_ ?_ ?_⟩ <;> simp
  · refine ⟨{ popped with }, main.of_same ?_ ?_ ?_ ?_ ?_ ?_, line.of_same ?_ ?_ ?_ ?_⟩ <;> simp

/-- What is not of the block's invariant may change freely: the input `abort` and what waits in the environment. -/
theorem BlockInv.environment {s : State} (h : BlockInv s) (abort : Bool) (trace : List Byte) (sched : List Bool) :
    BlockInv { s with abort := abort, trace := trace, sched := sched } := by
  obtain ⟨stored, main, line⟩ := (blockInv_iff s).1 h
  exact (blockInv_iff _).2
    ⟨{ stored with }, main.of_same rfl rfl rfl rfl rfl fun _ => id, line.of_same rfl rfl rfl rfl⟩

/-- Every effect of an item keeps the invariant. -/
theorem ItemEffect.sound {i : Instr} {s t : State} (h : BlockInv s) (ht : ItemEffect s i t) : BlockInv t := by
  obtain ⟨stored, main, line⟩ := (blockInv_iff s).1 h
  cases ht with
  | taken port _ => exact (blockInv_iff _).2 ⟨{ stored with }, port, line.of_same rfl rfl rfl rfl⟩
  | waits _ => exact h.environment _ _ _
  | usedUp _ => exact h
  | answered _ st v ready => exact (stored.finish st v).blockInv_of_idle rfl ready.lineIdle
  | txAnswered _ st v ready =>
    exact (stored.txTailRead.finish st v).blockInv_of_idle rfl (by simpa using ready.lineIdle)
  | rxAnswered _ st v ready =>
    exact (stored.rxHeadRead.finish st v).blockInv_of_idle rfl (by simpa using ready.lineIdle)
  | marked _ st v ready => exact StoredSound.blockInv_of_idle { stored with } rfl ready.lineIdle
  | rxTaken st v ready _ =>
    have moved := stored.rxHeadRead.setRxT (v := nextSlot s.rxt s.cfg.rxCap)
      (by simpa using StoredSound.nextRx_lt s.rxt)
    exact (moved.finish st v).blockInv_of_idle rfl (by simpa using ready.lineIdle)
  | txwBegun ready first =>
    obtain ⟨storedT, sound⟩ := txwFirst_sound stored first
    exact afterMainTxw_sound storedT sound (txwFirst_txProducerOnly first) ready.lineIdle
  | storeBegun ready fits =>
    have begun := storeStage_sound (s := { s with kvalid := false }) fits rfl (Nat.zero_le _)
      (fun k hk => absurd hk (Nat.not_lt_zero k))
    exact (blockInv_iff _).2 ⟨{ stored with written := fun valid => nomatch valid }, begun, .idle ready.lineIdle⟩
  | recvBegun ready => exact stored.blockInv_of_recv (freshRecv_sound s) ready.lineIdle
  | pushed push => exact pushRx_sound h push
  | popped pop => exact popTx_sound h pop
  | resendBegun _ valid =>
    exact (blockInv_iff _).2
      ⟨{ stored with }, main.of_same rfl rfl rfl rfl rfl fun _ => id, resendAt_sound rfl valid rfl⟩
  | abortLow => exact h.environment _ _ _
  | abortHigh => exact h.environment _ _ _
  | reset => exact stored.afterRst.blockInv_of_idle rfl rfl
  | arrived _ bytes => exact h.environment _ _ _

/-- Every step of an agent keeps the invariant. -/
theorem agentStep_sound {s : State} {u : Turn} (h : BlockInv s) (hu : agentStep s = .next u) : BlockInv u.st := by
  obtain ⟨stored, main, -⟩ := (blockInv_iff s).1 h
  unfold MainSound at main
  obtain ⟨c, line, hr⟩ | ⟨line, ⟨-, rfl⟩ | ⟨i, hm, hi⟩ | ⟨c, r, hm, hr, ht⟩ | ⟨f, stage, hm, hs⟩ | ⟨c, hm, hr⟩⟩ :=
    agentStep_eq_next hu
  · exact resendStep_sound h line hr
  · exact h
  · have begun : BlockInv { s with main := .idle } := StoredSound.blockInv_of_idle { stored with } rfl line
    exact (exec_effect hi).sound begun
  · rw [hm] at main
    obtain ⟨storedT, sound⟩ := txwStep_sound stored main hr
    exact ht ▸ afterMainTxw_sound storedT sound (txwStep_txProducerOnly hr) line
  · rw [hm] at main
    exact storeStep_sound stored main line hs
  · rw [hm] at main
    exact recvStep_sound stored main line hr

/-- Settles O55: neither the environment nor an item nor an agent's step leaves the invariant. -/
theorem stepKeepsInvariant : Obligations.StepKeepsInvariant := by
  unfold Obligations.StepKeepsInvariant
  intro s t
  refine step_preserves ?environment ?item ?agent
  case environment => exact fun s trace sched h => h.environment s.abort trace sched
  case item => exact fun _ _ _ h hi => (exec_effect hi).sound h
  case agent => exact fun _ _ h hu => agentStep_sound h hu

/-- What is stored right after reset is sound: the rings are cleared and the cache holds nothing (R50). -/
theorem reset_stored : StoredSound State.reset where
  params := by decide
  rx := .cleared (Nat.succ_pos _)
  tx := .cleared (Nat.succ_pos _)
  kcWf := List.Pairwise.nil
  kcBelow := by simp [State.reset, Mem.below]
  klen := Nat.zero_le _
  written := fun valid => nomatch valid

/-- R138: an empty ring with the sender disabled meets the streaming contract. -/
theorem streaming_of_empty {s : State} (empty : s.txh = s.txt) (disabled : s.txie = false)
    (inRange : s.txt < s.cfg.txCap) : Streaming s where
  enabled := by simp [empty, disabled]
  written := fun k hk => by
    rw [empty, (occ_eq_zero inRange inRange).2 rfl] at hk
    exact absurd hk (Nat.not_lt_zero k)

/-- Settles O54: at reset nothing is in flight and the TX ring is empty. -/
theorem resetStateSound : Obligations.ResetStateSound := by
  unfold Obligations.ResetStateSound
  exact ⟨reset_stored.blockInv_of_idle rfl rfl, streaming_of_empty rfl rfl (Nat.succ_pos _)⟩

end Sys2Proof.Machine
end

/-! ## O2, O21, O45, O46: the two sides, their turns and what they see of each other (R70 to R72, R103) -/

section
namespace Sys2Proof.Machine

/-! ### Whose turn it is (R70, R103) -/

/-- With an operation in progress, a step is a step in progress. -/
theorem step_of_busy {s : State} (up : s.up = true) (busy : s.main ≠ .idle ∨ s.line ≠ .idle) :
    step s = inProgress s := by
  have notQuiet : (s.quiet || !s.up) = false := by
    rw [← not_and_or] at busy
    simpa [State.quiet, up] using busy
  simp [step, turn, notQuiet]

/-- Where the schedule lets no event land at this boundary, a step in progress is the agent's turn. -/
theorem inProgress_of_quiet_boundary {s : State} (h : s.sched.head? ≠ some true) :
    inProgress s = agentTurn { s with sched := s.sched.tail } := by
  unfold inProgress
  split
  · rename_i used
    obtain ⟨⟩ := s
    cases used
    rfl
  · rename_i rest hs; simp [hs]
  · rename_i rest hs; simp [hs] at h

/-- Where the schedule lets an event land, a step in progress serves a waiting item if there is one. -/
theorem inProgress_of_event_boundary {s : State} (h : s.sched.head? = some true) :
    inProgress s = serveWaiting { s with sched := s.sched.tail } (agentTurn { s with sched := s.sched.tail }) := by
  unfold inProgress
  split
  · rename_i used; simp [used] at h
  · rename_i rest hs; simp [hs] at h
  · rename_i rest hs; simp [hs]

/-- A servable item of the trace is served. -/
theorem serveWaiting_of_item {s : State} {o : Result State} {i : Instr} {rest : List Byte}
    (h : findItem (servable s) s.trace.length s.trace = .item i rest) :
    serveWaiting s o = exec i { s with trace := rest } := by
  simp [serveWaiting, h]

/-- With nothing servable, the alternative is taken. -/
theorem serveWaiting_of_nothingServable {s : State} {o : Result State} (h : nothingServable s) :
    serveWaiting s o = o := by
  simp [serveWaiting, h]

/-- The turn of an agent is its step where that makes progress. -/
theorem agentTurn_of_progress {s : State} {u : Turn} (h : agentStep s = .next u) (progress : u.held = false) :
    agentTurn s = .next u.st := by
  simp [agentTurn, h, progress]

/-- The turn of an agent that holds goes to the items waiting. -/
theorem agentTurn_of_hold {s : State} {u : Turn} (h : agentStep s = .next u) (hold : u.held = true) :
    agentTurn s = serveWaiting u.st (.next u.st) := by
  simp [agentTurn, h, hold]

/-- Settles O2: the schedule's head says whether a waiting item or the agent has this boundary, and a hold gives it to a
waiting item. -/
theorem stepTakesAgentTurn : Obligations.StepTakesAgentTurn := by
  unfold Obligations.StepTakesAgentTurn
  intro s u up busy hu
  rw [step_of_busy up busy]
  refine ⟨fun boundary => ?agent, fun boundary i rest found => ?event⟩
  case agent =>
    rw [inProgress_of_quiet_boundary boundary]
    refine ⟨agentTurn_of_progress hu, fun hold none => ?_, fun i rest hold found => ?_⟩
    · rw [agentTurn_of_hold hu hold, serveWaiting_of_nothingServable none]
    · rw [agentTurn_of_hold hu hold, serveWaiting_of_item found]
  case event => rw [inProgress_of_event_boundary boundary, serveWaiting_of_item found]

/-! ### What one side sees of the other's index (R72) -/

/-- Settles O21: `seenIndex` picks among the values listed, and a stale read empties the list. -/
theorem crossSideReads : Obligations.CrossSideReads := by
  unfold Obligations.CrossSideReads
  refine fun s => ⟨fun exactView => ?present, ?listed, fun stale => ?forgotten⟩
  case present =>
    exact ⟨seenIndex_exact exactView _ _, seenIndex_exact exactView _ _, seenIndex_exact exactView _ _,
      seenIndex_exact exactView _ _⟩
  case listed => exact ⟨seenIndex_mem s _ _, seenIndex_mem s _ _, seenIndex_mem s _ _, seenIndex_mem s _ _⟩
  case forgotten => simp [State.txTailRead, State.txHeadRead, State.rxTailRead, State.rxHeadRead, stale]

/-! ### How requests and events enter (R70, R71) -/

/-- R102: a reserved operation code is a request like any other. -/
theorem refuseReserved_eq_issue (i : Instr) (s : State) : ∃ body, refuseReserved i s = issue i s body := ⟨_, rfl⟩

/-- R100, R102: every main-side item is a request on `m_cmd`. -/
theorem exec_eq_issue {i : Instr} (port : i.port = .main) (s : State) : ∃ body, exec i s = issue i s body := by
  cases i with
  | rxpush | txpop | tick | abort0 | abort1 | rst | frameShort | frameExt => cases port
  | reserved0 | reservedC | reservedD | reservedE | reservedF => exact refuseReserved_eq_issue _ s
  | _ => unfold exec; exact ⟨_, rfl⟩

/-- R101: every line-side item is an event. -/
theorem exec_eq_serve {i : Instr} (port : i.port = .line) (s : State) : ∃ body, exec i s = serve i s body := by
  cases i with
  | rxpush | txpop | tick => unfold exec; exact ⟨_, rfl⟩
  | _ => cases port

/-- R70 item 1: a request is refused while another is in flight. -/
theorem issue_inFlight {i : Instr} {s : State} {body : State → Result State} (up : s.up = true)
    (busy : s.main ≠ .idle) : issue i s body = .refused .requestInFlight := by
  simp [issue, up, busy]

/-- R70 item 3: a request made while the line side is in progress is taken without a step. -/
theorem issue_lineBusy {i : Instr} {s : State} {body : State → Result State} (up : s.up = true) (idle : s.main = .idle)
    (busy : s.line ≠ .idle) : issue i s body = .next { s with main := .issued i } := by
  simp [issue, up, idle, busy]

/-- R70 item 2: an event that may not begin waits at the head of the trace. -/
theorem serve_waits {i : Instr} {s : State} {body : State → Result State} (up : s.up = true)
    (may : mayBegin s i = false) : serve i s body = .next { s with trace := encode i ++ s.trace } := by
  simp [serve, up, may]

/-- R71: with the line side in progress, no event begins but a TXPOP where nesting is allowed. -/
theorem mayBegin_eq_false {s : State} {i : Instr} (busy : s.line ≠ .idle)
    (flat : i = .txpop → s.cfg.lineNesting = false) : mayBegin s i = false := by
  rw [Bool.eq_false_iff, ne_eq, mayBegin_iff]
  rintro (idle | ⟨_, _, -, nesting, pop, -, -⟩)
  · exact busy idle
  · simp [flat pop] at nesting

/-- Settles O45: every main-side item is a request, every line event is served, and the guards of the two say the rest.
-/
theorem oneOperationPerSide : Obligations.OneOperationPerSide := by
  unfold Obligations.OneOperationPerSide
  refine ⟨fun s i up port busy => ?second, fun s i up port idle busy => ?request, fun s i up port busy flat => ?event⟩
  case second => obtain ⟨_, he⟩ := exec_eq_issue port s; exact he.trans (issue_inFlight up busy)
  case request => obtain ⟨_, he⟩ := exec_eq_issue port s; exact he.trans (issue_lineBusy up idle busy)
  case event => obtain ⟨_, he⟩ := exec_eq_serve port s; exact he.trans (serve_waits up (mayBegin_eq_false busy flat))

/-! ### TXPOP inside a RESEND (R71, R243) -/

/-- Which of the values that stay readable are kept depends on the view alone, and a read does not change it. -/
theorem remember_txHeadRead (s : State) (past : List Nat) (old : Nat) :
    remember s.txHeadRead past old = remember s past old := by
  simp [remember]

/-- With the tail in range a pop of the TX ring answers. -/
theorem popTx_next {s : State} (h : s.txt < s.cfg.txCap) : ∃ t, popTx s = .next t := by
  have cell : s.txHeadRead.txt < arraySize s.txHeadRead.cfg .txbuf := by simpa using h
  simp only [popTx, readCell_next cell, andThen_next]
  split <;> exact ⟨_, rfl⟩

/-- R126: with the sender enabled, a TXPOP that may begin is a pop of the TX ring. -/
theorem exec_txpop_served {s : State} (up : s.up = true) (may : mayBegin s .txpop = true) (enabled : s.txie = true) :
    exec .txpop s = popTx s := by
  simp [exec, execTxpop, serve, up, may, enabled]

/-- R126, R127: a pop of a TX ring that is not empty emits the oldest byte, advances the tail, and disables the sender
if the ring is then empty. -/
theorem popTx_of_nonempty {s : State} (nonempty : s.txHeadSeen ≠ s.txt) (inRange : s.txt < s.cfg.txCap) :
    popTx s = .next
      { s.txHeadRead with
        txt := nextSlot s.txt s.cfg.txCap, pastTxT := remember s s.pastTxT s.txt
        wireOut := s.wireOut ++ [cellValue s .txbuf s.txbuf s.txt]
        txie := if nextSlot s.txt s.cfg.txCap = s.txHeadSeen then false else s.txie } := by
  obtain ⟨t, ht⟩ := popTx_next inRange
  obtain ⟨empty, -⟩ | ⟨-, -, rfl⟩ := popTx_eq_next ht
  · exact absurd empty nonempty
  · rw [ht]; simp [State.setTxT, remember_txHeadRead]

/-- R121, R123: a TXW whose wait step holds for the tail seen is in its wait step. -/
theorem waits_of_seen {s : State} {x : TxwCtx} (low : s.abort = false)
    (h : (x.stage = .wait ∧ ringFull s.txh s.txTailSeen s.cfg.txCap = true) ∨ ∃ wh, x.stage = .w2 wh s.txTailSeen) :
    x.waits s = true :=
  have seen := txTailSeen_mem_readable s
  (waits_iff s x).2 ⟨low, h.imp (fun ⟨stage, full⟩ => ⟨stage, _, seen, full⟩) fun ⟨wh, stage⟩ => ⟨wh, _, stage, seen⟩⟩

/-- R71, with the exact view: a RESEND is in no wait step while `abort = 1`, with no TXW in flight, with room in the
ring, or at W3 to W5. -/
theorem waits_eq_false {s : State} {c : ResendCtx} {x : TxwCtx} (exactView : s.cfg.xsideView = .exact)
    (hx : c.tx = some x) (h : s.abort = true ∨ c.tx = none ∨ ∃ y, c.tx = some y ∧
      (y.stage = .wait → ringFull s.txh s.txt s.cfg.txCap = false) ∧ ∀ wh wn, y.stage = .w2 wh wn → wn ≠ s.txt) :
    x.waits s = false := by
  rw [Bool.eq_false_iff, ne_eq, waits_iff, txTailReadable_exact exactView]
  rintro ⟨low, waiting⟩
  obtain high | none | ⟨y, hy, room, free⟩ := h
  · simp [low] at high
  · simp [hx] at none
  · obtain rfl : x = y := Option.some.inj (hx.symm.trans hy)
    obtain ⟨stage, t, ht, full⟩ | ⟨wh, wn, stage, ht⟩ := waiting
    · rw [List.mem_singleton.1 ht, room stage] at full; cases full
    · exact free wh wn stage (List.mem_singleton.1 ht)

/-- Settles O46: a RESEND in a wait step lets the pop through, whose effect is that of any pop; elsewhere the event
waits. -/
theorem nestedTxpopServed : Obligations.NestedTxpopServed := by
  unfold Obligations.NestedTxpopServed
  refine ⟨fun s c x up nesting line hx low wait enabled nonempty inRange => ?served,
    fun s c up exactView line elsewhere => ?waits⟩
  case served =>
    have may : mayBegin s .txpop = true :=
      (mayBegin_iff s .txpop).2 (.inr ⟨c, x, line, nesting, rfl, hx, waits_of_seen low wait⟩)
    rw [exec_txpop_served up may enabled, popTx_of_nonempty nonempty inRange, enabled]
    rfl
  case waits =>
    have mayNot : mayBegin s .txpop = false := by
      rw [Bool.eq_false_iff, ne_eq, mayBegin_iff]
      rintro (idle | ⟨c', x, line', -, -, hx, waits⟩)
      · simp [line] at idle
      · obtain rfl : c = c' := LineCtx.resend.inj (line.symm.trans line')
        simp [waits_eq_false exactView hx elsewhere] at waits
    obtain ⟨_, he⟩ := exec_eq_serve (i := .txpop) rfl s
    exact he.trans (serve_waits up mayNot)

end Sys2Proof.Machine
end

/-! ## O56: no step leaves an array's index range (R60, R62, R185) -/

section
namespace Sys2Proof.Machine

theorem BlockInv.stored {s : State} (h : BlockInv s) : StoredSound s := ((blockInv_iff s).1 h).1

/-! ### What the agents' steps answer from a sound state -/

/-- With the head in range a push into the RX ring answers. -/
theorem pushRx_next {s : State} {d : Byte} (h : s.rxh < s.cfg.rxCap) : ∃ t, pushRx d s = .next t := by
  simp only [pushRx]
  split
  · exact ⟨_, rfl⟩
  · rw [writeCell_next (by simpa using h)]; exact ⟨_, rfl⟩

/-- A TXW step answers: the cells it writes are the one at the head and the one at `WH`. -/
theorem txwStep_next {s : State} {c : TxwCtx} (h : StoredSound s) (hc : TxwSound s c) : ∃ r, txwStep c s = .next r := by
  obtain ⟨b, stage⟩ := c
  cases stage with
  | wait =>
    have head : s.txTailRead.txh < s.txTailRead.cfg.txCap := by simpa using h.tx.head
    simp only [txwStep, txwCommit_next head]
    split_ifs <;> exact ⟨_, rfl⟩
  | w2 wh wn => simp only [txwStep]; split_ifs <;> exact ⟨_, rfl⟩
  | w3 wh wn =>
    obtain ⟨-, inRange, -⟩ := hc
    simp only [txwStep]
    rw [writeCell_next (by simpa using inRange)]; exact ⟨_, rfl⟩
  | w4 wh wn => exact ⟨_, rfl⟩
  | w5 wh wn => exact ⟨_, rfl⟩

/-- So does the first step of a TXW. -/
theorem txwFirst_next {s : State} (h : StoredSound s) (b : Byte) : ∃ r, txwFirst b s = .next r := by
  obtain ⟨-, he⟩ | ⟨oneStep, he⟩ := txwFirst_eq b s
  · exact ⟨_, he⟩
  · rw [he]; exact txwStep_next (c := ⟨b, .wait⟩) h oneStep

/-- A STORE step answers: its cursor is within the frame, and the frame fits the cache (R190). -/
theorem storeStep_next {s : State} {f : List Byte} {stage : StoreStage} (h : StoreSound s f stage) :
    ∃ t, storeStep f stage s = .next t := by
  obtain ⟨fits, -, hstage⟩ := h
  cases stage with
  | s2 si =>
    obtain ⟨lt, -⟩ := hstage
    simp only [storeStep]
    rw [writeCell_next (by simpa using lt.trans_le fits)]; exact ⟨_, rfl⟩
  | s3 => exact ⟨_, rfl⟩
  | s4 => exact ⟨_, rfl⟩

/-- A RESEND step answers: its cursor is within the cached frame (R29, R195). -/
theorem resendStep_next {s : State} {c : ResendCtx} (h : BlockInv s) (line : s.line = .resend c) :
    ∃ u, resendStep c s = .next u := by
  obtain ⟨stored, -, hline⟩ := (blockInv_iff s).1 h
  simp only [LineSound, line] at hline
  obtain ⟨lt, -, -, tx⟩ := hline
  have cell : c.ri < s.cfg.frameCap := lt.trans_le (h.resend_bounds line).2
  obtain ⟨r, hr⟩ : ∃ r, resendTxw c s = .next r := by
    unfold resendTxw
    split
    · rw [readCell_next (by simpa using cell)]; exact txwFirst_next stored _
    · rename_i x hx; exact txwStep_next stored (tx x hx)
  exact ⟨afterResendTxw c r, by simp [resendStep, lt, hr]⟩

/-! ### RECV -/

/-- The end-tests find a frame complete only at the expected count (R174). -/
theorem RecvCtx.exp_of_finished {s : State} {c : RecvCtx} (h : c.endTest s = .finished) : c.exp = some c.cnt := by
  have complete : c.complete s = true := by
    unfold RecvCtx.endTest at h
    by_contra incomplete
    cases full : c.bufferFull <;> simp [incomplete, full] at h
  rw [RecvCtx.complete, Bool.and_eq_true, beq_iff_eq] at complete
  exact complete.1

/-- The dispatch counts nothing (R172). -/
theorem RecvCtx.dispatched_cnt (s : State) (c : RecvCtx) : (c.dispatched s).cnt = c.cnt := by
  obtain ⟨-, -, hd⟩ | hd := c.dispatched_cases s <;> rw [hd]

/-- Finish Complete answers: the frame and its payload lie within `RB` (R176). -/
theorem recvComplete_next {s : State} {c : RecvCtx} (frame : c.cnt.toNat ≤ 256) (payload : 2 + c.plen.toNat ≤ 256) :
    ∃ t, recvComplete c s = .next t := by
  unfold recvComplete
  rw [readSpan_next (by simpa using frame), readSpan_next (by simpa using payload), andThen_next]
  split <;> exact ⟨_, rfl⟩

/-- A complete frame's payload lies within `RB`: the count is `PLEN + 5` then, and at most 256 (R95, R172, R174). -/
theorem RecvSound.payload_within {s t : State} {c : RecvCtx} {b : Byte} (h : RecvSound s c)
    (finished : ((c.stored b).dispatched t).endTest t = .finished) :
    2 + ((c.stored b).dispatched t).plen.toNat ≤ 256 := by
  obtain ⟨-, -, -, length⟩ := h.dispatched_exp (RecvCtx.exp_of_finished finished)
  rw [RecvCtx.dispatched_cnt, RecvCtx.stored_cnt b h.cnt] at length
  have := h.cnt
  omega

/-- What follows the byte taken answers (R172, R174, R176). -/
theorem recvTaken_next {s t : State} {c : RecvCtx} (h : RecvSound s c) (b : Byte) :
    ∃ u, recvTaken (c.stored b) t = .next u := by
  have counted : ((c.stored b).dispatched t).cnt.toNat ≤ 256 := by
    rw [RecvCtx.dispatched_cnt, RecvCtx.stored_cnt b h.cnt]
    exact Nat.succ_le_succ h.cnt
  simp only [recvTaken]
  rw [← RecvCtx.dispatched]
  split
  · exact ⟨_, rfl⟩
  · rename_i finished; exact recvComplete_next counted (h.payload_within finished)
  · exact ⟨_, rfl⟩

/-- A RECV step answers (R185). -/
theorem recvStep_next {s : State} {c : RecvCtx} (h : StoredSound s) (hc : RecvSound s c) :
    ∃ t, recvStep c s = .next t := by
  unfold recvStep
  split
  · exact ⟨_, rfl⟩
  · have tail : s.rxHeadRead.rxt < s.rxHeadRead.cfg.rxCap := by simpa using h.rx.tail
    have room : c.cnt.toNat < 256 := Nat.lt_succ_of_le hc.cnt
    unfold recvTake
    rw [takeRx_next tail, andThen_next, writeCell_next (by simpa using room)]
    exact recvTaken_next hc _
  · exact ⟨_, rfl⟩

/-! ### Items, agents and steps -/

theorem not_faults_of_next {o : Result State} (h : ∃ t, o = .next t) : ¬ Faults o := by
  obtain ⟨t, rfl⟩ := h
  rintro ⟨e, he⟩
  cases he

theorem issue_not_faults {i : Instr} {s : State} {body : State → Result State} (h : ¬ Faults (body s)) :
    ¬ Faults (issue i s body) := fun ⟨e, he⟩ => h ⟨e, (issue_eq_fault he).2⟩

theorem serve_not_faults {i : Instr} {s : State} {body : State → Result State} (h : ¬ Faults (body s)) :
    ¬ Faults (serve i s body) := fun ⟨e, he⟩ => h ⟨e, serve_eq_fault he⟩

theorem refuseReserved_not_faults (i : Instr) (s : State) : ¬ Faults (refuseReserved i s) :=
  issue_not_faults (not_faults_of_next ⟨_, rfl⟩)

/-- No item faults: the cells an item touches stand at a ring's index. -/
theorem exec_not_faults {s : State} (h : StoredSound s) (i : Instr) : ¬ Faults (exec i s) := by
  cases i with
  | txw b =>
    obtain ⟨r, hr⟩ := txwFirst_next h b
    unfold exec execTxw
    exact issue_not_faults (by simp [hr, Faults])
  | rxr =>
    have tail : s.rxHeadRead.rxt < s.rxHeadRead.cfg.rxCap := by simpa using h.rx.tail
    unfold exec execRxr
    refine issue_not_faults (not_faults_of_next ?_)
    simp only [takeRx_next tail, andThen_next]
    split <;> exact ⟨_, rfl⟩
  | crc16 | build | store =>
    unfold exec
    refine issue_not_faults (not_faults_of_next ?_)
    split <;> exact ⟨_, rfl⟩
  | rxpush d => unfold exec; exact serve_not_faults (not_faults_of_next (pushRx_next h.rx.head))
  | txpop =>
    unfold exec
    refine serve_not_faults (not_faults_of_next ?_)
    split
    · exact popTx_next h.tx.tail
    · exact ⟨_, rfl⟩
  | tick =>
    unfold exec
    refine serve_not_faults (not_faults_of_next ?_)
    split <;> exact ⟨_, rfl⟩
  | rxocc | rxavl | txocc | txavl | unpack | recv =>
    unfold exec
    exact issue_not_faults (not_faults_of_next ⟨_, rfl⟩)
  | reserved0 | reservedC | reservedD | reservedE | reservedF => exact refuseReserved_not_faults _ s
  | abort0 | abort1 | rst | frameShort | frameExt => exact not_faults_of_next ⟨_, rfl⟩

/-- A step that always makes progress faults where what it does faults. -/
theorem progress_ne_fault {o : Result State} (h : ¬ Faults o) (e : Fault) : progress o ≠ .fault e := by
  intro he
  obtain ho | ⟨_, -, hn⟩ := andThen_eq_fault.1 he
  · exact h ⟨e, ho⟩
  · cases hn

/-- No agent's step faults. -/
theorem agentStep_ne_fault {s : State} (h : BlockInv s) (e : Fault) : agentStep s ≠ .fault e := by
  obtain ⟨stored, main, -⟩ := (blockInv_iff s).1 h
  unfold MainSound at main
  unfold agentStep
  split
  · rename_i c line
    obtain ⟨u, hu⟩ := resendStep_next h line
    simp [hu]
  · split <;> rename_i hm <;> rw [hm] at main
    · simp
    · exact progress_ne_fault (exec_not_faults (s := { s with main := .idle }) { stored with } _) e
    · obtain ⟨r, hr⟩ := txwStep_next stored main
      simp [hr]
    · exact progress_ne_fault (not_faults_of_next (storeStep_next main)) e
    · exact progress_ne_fault (not_faults_of_next (recvStep_next stored main)) e

/-- Serving from the trace does not fault where the alternative does not. -/
theorem serveWaiting_not_faults {s : State} {o : Result State} (h : BlockInv s) (ho : ¬ Faults o) :
    ¬ Faults (serveWaiting s o) := by
  unfold serveWaiting
  split
  · rename_i i rest _
    exact exec_not_faults (h.environment s.abort rest s.sched).stored i
  · rintro ⟨e, he⟩; cases he
  · exact ho

/-- The turn of an agent does not fault: its step keeps the invariant, from which a waiting item is served. -/
theorem agentTurn_not_faults {s : State} (h : BlockInv s) : ¬ Faults (agentTurn s) := by
  rintro ⟨e, he⟩
  obtain hs | ⟨u, hu, hw⟩ := andThen_eq_fault.1 he
  · exact agentStep_ne_fault h e hs
  · split at hw
    · exact serveWaiting_not_faults (agentStep_sound h hu) (not_faults_of_next ⟨_, rfl⟩) ⟨e, hw⟩
    · cases hw

theorem fetchNext_not_faults {s : State} (h : BlockInv s) : ¬ Faults (fetchNext s) := by
  unfold fetchNext
  split
  · exact not_faults_of_next ⟨_, rfl⟩
  · rintro ⟨e, he⟩; cases he
  · rename_i i rest _
    exact exec_not_faults (h.environment s.abort rest s.sched).stored i

theorem inProgress_not_faults {s : State} (h : BlockInv s) : ¬ Faults (inProgress s) := by
  have scheduled : BlockInv { s with sched := s.sched.tail } := h.environment s.abort s.trace s.sched.tail
  have turn := agentTurn_not_faults scheduled
  by_cases boundary : s.sched.head? = some true
  · rw [inProgress_of_event_boundary boundary]; exact serveWaiting_not_faults scheduled turn
  · rw [inProgress_of_quiet_boundary boundary]; exact turn

/-- Settles O56: the invariant bounds every index that an item or an agent's step uses. -/
theorem stepNeverFaults : Obligations.StepNeverFaults := by
  unfold Obligations.StepNeverFaults
  intro s h
  unfold step turn
  split
  · exact fetchNext_not_faults h
  · exact inProgress_not_faults h

end Sys2Proof.Machine
end

/-! ## O3, O4, O5: the two encodings read back (R91 to R94, R100 to R103) -/

section
namespace Sys2Proof

/-! ### The trace encoding (R103) -/

/-- R103: a well-formed item that is no wire frame is read back from its trace encoding. An item's first byte says which
operand follows: none, one byte, or a length and that many bytes. -/
theorem decodeItem_encode {i : Instr} (wf : i.wf = true) (notWire : i.port ≠ .wire) (rest : List Byte) :
    decodeItem (encode i ++ rest) = .item i rest := by
  cases i with
  | crc16 bytes | build bytes | unpack bytes | store bytes => exact fetchBytes_lengthAndBytes _ _ bytes rest wf
  | frameShort | frameExt => exact absurd rfl notWire
  | _ => rfl

/-- Settles O4. -/
theorem traceEncodingRoundTrip : Obligations.TraceEncodingRoundTrip := by
  unfold Obligations.TraceEncodingRoundTrip
  exact fun i rest wf notWire => decodeItem_encode wf notWire rest

/-- Settles O3: each word written out from the tables is the encoding of its item, so the round trip reads it. -/
theorem traceCodesDecode : Obligations.TraceCodesDecode := by
  unfold Obligations.TraceCodesDecode
  have read := traceEncodingRoundTrip
  exact ⟨read (.txw 0x41#8) [] rfl nofun, read .rxr [0x03#8] rfl nofun, read .txavl [] rfl nofun,
    read (.crc16 [0x31#8, 0x32#8, 0x33#8]) [0x05#8] rfl nofun, read (.store [0xAA#8]) [] rfl nofun,
    read .recv [] rfl nofun, read (.rxpush 0x02#8) [] rfl nofun, read .tick [] rfl nofun, read .abort1 [] rfl nofun,
    read .rst [] rfl nofun, read .reservedF [] rfl nofun⟩

/-! ### The wire formats (R91, R92) -/

/-- R91, R92: what follows the header of either frame shape, its payload, its checksum and the EndMarker, is read back.
-/
theorem splitBody_frame (mk : List Byte → Half → Instr) (p : List Byte) (crc : Half) :
    splitBody mk p.length (p ++ [hiByte crc, loByte crc, Config.endMarker]) = some (mk p crc) := by
  simp [splitBody]

/-- R91: the header of a short frame announces the length of what follows. -/
theorem decodeFrame_shortFrame {p : List Byte} (fits : p.length ≤ 255) (crc : Half) :
    decodeFrame (shortFrame p crc) = some (.frameShort p crc) := by
  simpa [decodeFrame, shortFrame, Nat.mod_eq_of_lt (Nat.lt_succ_of_le fits)]
    using splitBody_frame .frameShort p crc

/-- R92: the header of an extended frame announces the length of what follows, which is at least 256. -/
theorem decodeFrame_extFrame {p : List Byte} (long : 256 ≤ p.length) (fits : p.length ≤ 65535) (crc : Half) :
    decodeFrame (extFrame p crc) = some (.frameExt p crc) := by
  simpa [decodeFrame, extFrame, Config.tagExt, Config.tagShort, Nat.mod_eq_of_lt (Nat.lt_succ_of_le fits), long]
    using splitBody_frame .frameExt p crc

/-- Settles O5: the two wire frames are the items of the line, and their well-formedness bounds their lengths. -/
theorem wireFrameRoundTrip : Obligations.WireFrameRoundTrip := by
  unfold Obligations.WireFrameRoundTrip
  intro i wf wire
  cases i with
  | frameShort p crc => exact decodeFrame_shortFrame (of_decide_eq_true wf) crc
  | frameExt p crc =>
    obtain ⟨long, fits⟩ : 256 ≤ p.length ∧ p.length ≤ 65535 := by simpa [Instr.wf] using wf
    exact decodeFrame_extFrame long fits crc
  | _ => cases wire

end Sys2Proof
end

/-! ## O6, O9: the frames BUILD emits and the line carries (R91, R155) -/

section
namespace Sys2Proof.Machine

/-- R91: a short frame is its two header bytes, the payload, and the three bytes after it. -/
theorem shortFrame_eq_cons (p : List Byte) (crc : Half) : shortFrame p crc =
    0x02#8 :: BitVec.ofNat 8 p.length :: (p ++ [crc.extractLsb' 8 8, crc.extractLsb' 0 8, 0x03#8]) := rfl

/-- R155: BUILD's frame of a payload of at most 255 bytes is the short one. -/
theorem frameOf_short {payload : List Byte} (p : Config.Params) (short : payload.length ≤ 255) :
    frameOf p payload = shortFrame payload (crcOf p payload) := if_pos short

/-- Settles O6: past the header an index counts into the payload, and past the payload into the last three bytes. -/
theorem shortFrameLayout : Obligations.ShortFrameLayout := by
  unfold Obligations.ShortFrameLayout
  intro p payload short
  rw [frameOf_short p short]
  refine ⟨shortFrame_length payload _, ?_⟩
  rw [shortFrame_eq_cons]
  refine ⟨rfl, rfl, fun k hk => ?payload, ?checksumHigh, ?checksumLow, ?endMarker⟩
  case payload => rw [Nat.add_comm]; simp [List.getElem?_append_left hk]
  case checksumHigh | checksumLow | endMarker => simp

/-- Settles O9: `arrive` puts one RXPUSH item for each byte before the trace, and the encoding of RXPUSH is two bytes. -/
theorem framesWaitOnTheLine : Obligations.FramesWaitOnTheLine := by
  unfold Obligations.FramesWaitOnTheLine
  exact fun _ _ _ => ⟨rfl, rfl⟩

end Sys2Proof.Machine
end

/-! ## O1, O8: what a step serves, and what it refuses (R102, R103, R260) -/

section
namespace Sys2Proof.Machine

/-- R103: with nothing in progress, a step serves the trace. -/
theorem step_of_idle {s : State} (main : s.main = .idle) (line : s.line = .idle) : step s = fetchNext s := by
  simp [step, turn, State.quiet, main, line]

/-- Settles O1. -/
theorem stepServesNextItem : Obligations.StepServesNextItem := by
  unfold Obligations.StepServesNextItem
  refine ⟨fun s i rest main line head => ?item, fun s main line atEnd => ?idle⟩
  case item => rw [step_of_idle main line, fetchNext, head]
  case idle => rw [step_of_idle main line, fetchNext, atEnd]; rfl

/-- Finishing with nothing in flight only returns the result. -/
theorem finish_of_idle {s : State} (main : s.main = .idle) (st : Status) (v : RspValue) :
    s.finish st v = { s with rsp := s.rsp ++ [⟨st, v⟩] } := by
  rw [State.finish, ← main]

/-- R102: a reserved operation code that may begin returns BAD_OPERAND and marks the run, and changes nothing else. -/
theorem refuseReserved_of_ready (i : Instr) {s : State} (ready : Ready s) :
    refuseReserved i s = .next { s with rsp := s.rsp ++ [⟨.badOperand, .nothing⟩], marked := true } := by
  have ⟨_, main, _⟩ := ready
  rw [refuseReserved, issue_ready ready, finish_of_idle main]

/-- R102: the meaning of each of the five reserved operation codes is to be refused. -/
theorem exec_reserved {i : Instr} (reserved : i ∈ [Instr.reserved0, .reservedC, .reservedD, .reservedE, .reservedF])
    (s : State) : exec i s = refuseReserved i s := by
  simp only [List.mem_cons, List.not_mem_nil, or_false] at reserved
  obtain rfl | rfl | rfl | rfl | rfl := reserved <;> rfl

/-- Settles O8: the reserved `m_op` values are requests that finish BAD_OPERAND, and 0x13 opens no item. -/
theorem reservedCodesRefused : Obligations.ReservedCodesRefused := by
  unfold Obligations.ReservedCodesRefused
  refine ⟨fun s i ready reserved => ⟨true, ?operation⟩, fun s rest ready head => ?event⟩
  case operation => rw [exec_reserved reserved, refuseReserved_of_ready i ready]
  case event =>
    obtain ⟨-, main, line⟩ := ready
    rw [step_of_idle main line, fetchNext, head]
    rfl

end Sys2Proof.Machine
end

/-! ## O30: the expected length of a short frame (R95, R172) -/

section
namespace Sys2Proof.Machine

/-- R95: a LengthByte zero-extended to 9 bits has room for the five bytes around the payload. -/
theorem expectedLength_toNat (len : Byte) : (len.setWidth 9 + 5#9).toNat = len.toNat + 5 := by
  have := len.isLt
  simp only [BitVec.toNat_add, BitVec.toNat_setWidth, BitVec.toNat_ofNat]
  omega

/-- Settles O30: the two outcomes of the dispatch, with the sum of the first within 9 bits. -/
theorem dispatchSetsExpectedLength : Obligations.DispatchSetsExpectedLength := by
  unfold Obligations.DispatchSetsExpectedLength
  intro s c
  obtain ⟨short, dispatched⟩ | ⟨other, dispatched⟩ := c.dispatch_eq s
  · have bound := (c.byteAt s 1).isLt
    have length := expectedLength_toNat (c.byteAt s 1)
    exact ⟨fun _ => ⟨_, dispatched, length, by omega, by omega⟩, fun other => absurd short other⟩
  · exact ⟨fun short => absurd short other, fun _ => dispatched⟩

end Sys2Proof.Machine
end

/-! ## A ring as the claims about byte order see it (R23, R33) -/

section
namespace Sys2Proof.Machine

/-- One ring of the block: its array with its slots and indices, and the number of the reset, which the free value of an
unwritten cell depends on. -/
structure RingView where
  array : Config.ArrayId
  epoch : Nat
  cap : Nat
  buf : Mem
  head : Nat
  tail : Nat

/-- The TX ring of a state (R22). -/
def State.txRing (s : State) : RingView := ⟨.txbuf, s.epoch, s.cfg.txCap, s.txbuf, s.txh, s.txt⟩

/-- The RX ring of a state (R21). -/
def State.rxRing (s : State) : RingView := ⟨.rxbuf, s.epoch, s.cfg.rxCap, s.rxbuf, s.rxh, s.rxt⟩

namespace RingView

/-- What a slot reads as (R50). -/
def cell (r : RingView) (i : Nat) : Byte := (Mem.read? r.buf i).getD (Config.unspecifiedCell r.epoch r.array i)

/-- The bytes a ring holds, oldest first (R23). -/
def bytes (r : RingView) : List Byte :=
  (List.range (occ r.head r.tail r.cap)).map fun k => r.cell ((r.tail + k) % r.cap)

/-- A byte stored at the head, and the head moved on. -/
def push (r : RingView) (b : Byte) : RingView :=
  { r with buf := Mem.write r.buf r.head b, head := nextSlot r.head r.cap }

/-- The tail moved on. -/
def pop (r : RingView) : RingView := { r with tail := nextSlot r.tail r.cap }

/-- The ring after one reset more (R50). -/
def cleared (r : RingView) : RingView := { r with epoch := r.epoch + 1, buf := [], head := 0, tail := 0 }

/-- `full` of the ring (R33). -/
def full (r : RingView) : Bool := ringFull r.head r.tail r.cap

/-- A ring with room for a byte and its indices in range (R5, R23). -/
structure InRange (r : RingView) : Prop where
  two : 2 ≤ r.cap
  head : r.head < r.cap
  tail : r.tail < r.cap

/-- Every buffered slot holds a value. -/
def Written (r : RingView) : Prop :=
  ∀ k, k < occ r.head r.tail r.cap → (Mem.read? r.buf ((r.tail + k) % r.cap)).isSome

variable {r : RingView}

theorem full_iff_next (r : RingView) : r.full = true ↔ nextSlot r.head r.cap = r.tail := by simp [full, ringFull]

/-- The successor of a slot is another slot. -/
theorem InRange.next_ne (h : r.InRange) {x : Nat} (hx : x < r.cap) : nextSlot x r.cap ≠ x := by
  have two := h.two
  rw [nextSlot_eq hx]; split <;> omega

/-- A full ring is not empty. -/
theorem InRange.nonempty_of_full (h : r.InRange) (full : r.full = true) : r.head ≠ r.tail := by
  rw [← (full_iff_next r).1 full]
  exact (h.next_ne h.head).symm

/-- A full ring has room once its tail has moved on. -/
theorem InRange.room_of_pop (h : r.InRange) (full : r.full = true) : r.pop.full = false := by
  rw [Bool.eq_false_iff, ne_eq, full_iff_next]
  intro stillFull
  exact h.next_ne h.tail (stillFull.symm.trans ((full_iff_next r).1 full))

theorem InRange.pop (h : r.InRange) : r.pop.InRange :=
  ⟨h.two, h.head, nextSlot_lt (Nat.zero_lt_of_lt h.tail)⟩

/-- No buffered slot is the one at the head. -/
theorem InRange.slot_ne_head (h : r.InRange) {k : Nat} (hk : k < occ r.head r.tail r.cap) :
    (r.tail + k) % r.cap ≠ r.head := by
  have inRange := h.head
  rw [occ_eq h.head h.tail] at hk
  by_cases wraps : r.tail + k < r.cap
  · rw [Nat.mod_eq_of_lt wraps]
    split at hk <;> omega
  · have small : r.tail + k - r.cap < r.cap := by split at hk <;> omega
    rw [Nat.mod_eq_sub_mod (Nat.le_of_not_lt wraps), Nat.mod_eq_of_lt small]
    split at hk <;> omega

theorem push_cell_head (r : RingView) (b : Byte) : (r.push b).cell r.head = b := by simp [cell, push]

theorem push_cell_other (r : RingView) (b : Byte) {i : Nat} (h : i ≠ r.head) : (r.push b).cell i = r.cell i := by
  simp [cell, push, Mem.read?_write_other r.buf b h]

/-- A byte pushed into a ring with room is the newest (R23). -/
theorem InRange.bytes_push (h : r.InRange) (room : r.full = false) (b : Byte) :
    (r.push b).bytes = r.bytes ++ [b] := by
  have older : ∀ k ∈ List.range (occ r.head r.tail r.cap),
      (r.push b).cell ((r.tail + k) % r.cap) = r.cell ((r.tail + k) % r.cap) :=
    fun k hk => push_cell_other r b (h.slot_ne_head (List.mem_range.1 hk))
  calc (r.push b).bytes
      = (List.range (occ r.head r.tail r.cap + 1)).map fun k => (r.push b).cell ((r.tail + k) % r.cap) := by
        rw [← occ_push h.head h.tail room]; rfl
    _ = r.bytes ++ [b] := by
        rw [List.range_succ, List.map_append, List.map_congr_left older, List.map_singleton,
          slot_at_occ h.head h.tail, push_cell_head]
        rfl

/-- A ring that is not empty holds the byte at its tail, and after it what is left once the tail has moved on (R23). -/
theorem InRange.bytes_pop (h : r.InRange) (nonempty : r.head ≠ r.tail) : r.bytes = r.cell r.tail :: r.pop.bytes := by
  rw [bytes, ← occ_pop h.head h.tail nonempty, List.range_succ_eq_map]
  simp [bytes, RingView.pop, cell, Nat.mod_eq_of_lt h.tail, slot_after_pop]

/-- A push leaves every buffered slot written. -/
theorem Written.push (hw : r.Written) (h : r.InRange) (room : r.full = false) (b : Byte) : (r.push b).Written := by
  intro k hk
  change k < occ (nextSlot r.head r.cap) r.tail r.cap at hk
  rw [occ_push h.head h.tail room] at hk
  change (Mem.read? (Mem.write r.buf r.head b) ((r.tail + k) % r.cap)).isSome
  by_cases newest : k = occ r.head r.tail r.cap
  · simp [newest, slot_at_occ h.head h.tail]
  · exact Mem.isSome_write _ _ (hw k (by omega))

/-- A pop leaves every buffered slot written. -/
theorem Written.pop (hw : r.Written) (h : r.InRange) (nonempty : r.head ≠ r.tail) : r.pop.Written := by
  intro k hk
  have fewer := occ_pop h.head h.tail nonempty
  change k < occ r.head (nextSlot r.tail r.cap) r.cap at hk
  change (Mem.read? r.buf ((nextSlot r.tail r.cap + k) % r.cap)).isSome
  rw [slot_after_pop]
  exact hw (k + 1) (by omega)

end RingView

theorem bufferedTx_eq (s : State) : bufferedTx s = s.txRing.bytes := rfl

theorem bufferedRx_eq (s : State) : bufferedRx s = s.rxRing.bytes := rfl

/-- From a sound state either ring has room for a byte and its indices in range. -/
theorem StoredSound.rings {s : State} (h : StoredSound s) : s.txRing.InRange ∧ s.rxRing.InRange := by
  have wf := h.params
  simp only [Config.Params.wf, Bool.and_eq_true, decide_eq_true_eq] at wf
  obtain ⟨⟨⟨rxN, txN⟩, -⟩, -⟩ := wf
  exact ⟨⟨Nat.succ_le_succ txN, h.tx.head, h.tx.tail⟩, ⟨Nat.succ_le_succ rxN, h.rx.head, h.rx.tail⟩⟩

end Sys2Proof.Machine
end

/-! ## What one step is made of -/

section
namespace Sys2Proof.Machine

/-- A step that always makes progress is no hold. -/
theorem progress_held {o : Result State} {u : Turn} (h : progress o = .next u) : u.held = false := by
  obtain ⟨t, -, hu⟩ := andThen_eq_next.1 h
  cases hu; rfl

/-- A TXW step that holds only reads the tail (R121, R123). -/
theorem txwStep_of_held {c x : TxwCtx} {s t : State} (h : txwStep c s = .next (.going x true, t)) :
    t = s.txTailRead := by
  obtain ⟨-, -, -, hr, -⟩ | ⟨-, -, -, -, rfl⟩ | ⟨-, -, -, hr, -⟩ | ⟨_, _, -, -, -, hr, -⟩ | ⟨_, _, -, -, -, -, rfl⟩ |
    ⟨_, _, -, -, hr, -⟩ | ⟨_, _, -, -, hr, -⟩ | ⟨_, _, -, hr, -⟩ | ⟨_, _, -, hr, -⟩ := txwStep_eq_next h
  case inr.inl | inr.inr.inr.inr.inl => rfl
  all_goals cases hr

/-- So does the first step of a TXW. -/
theorem txwFirst_of_held {b : Byte} {x : TxwCtx} {s t : State} (h : txwFirst b s = .next (.going x true, t)) :
    t = s.txTailRead := by
  obtain ⟨-, he⟩ | ⟨-, he⟩ := txwFirst_eq b s
  · rw [he] at h; cases h
  · exact txwStep_of_held (he.symm.trans h)

/-- R121, R196: under the exact view a hold leaves the state as it was but for the operation in flight. -/
theorem agentStep_of_held {s : State} {u : Turn} (exactView : s.cfg.xsideView = .exact) (h : agentStep s = .next u)
    (held : u.held = true) : ∃ main line, u.st = { s with main := main, line := line } := by
  have read := txTailRead_exact exactView
  unfold agentStep at h
  split at h
  · obtain ⟨-, ⟨r, t⟩, hr, rfl⟩ | ⟨-, rfl⟩ := resendStep_eq_next h
    · cases r with
      | done st => cases held
      | going x b =>
        obtain rfl : b = true := held
        have same : t = s.txTailRead := by
          obtain ⟨-, -, first⟩ | ⟨_, -, next⟩ := resendTxw_eq_next hr
          · exact txwFirst_of_held first
          · exact txwStep_of_held next
        rw [same, read]
        exact ⟨_, _, rfl⟩
    · cases held
  · split at h
    · cases h; exact ⟨_, _, rfl⟩
    · simp [progress_held h] at held
    · obtain ⟨⟨r, t⟩, hr, hu⟩ := andThen_eq_next.1 h
      cases hu
      cases r with
      | done st => cases held
      | going x b =>
        obtain rfl : b = true := held
        rw [txwStep_of_held hr, read]
        exact ⟨_, s.line, rfl⟩
    · simp [progress_held h] at held
    · simp [progress_held h] at held

/-- A relation between the state before a step and the state after it holds of every step of the machine, where it holds
of every item and of every agent's step, and neither the trace and the schedule nor a hold before an item bears on it. -/
theorem step_relates {R : State → State → Prop} (unchanged : ∀ s, R s s)
    (environment : ∀ s t trace sched, R { s with trace := trace, sched := sched } t → R s t)
    (item : ∀ i s t, exec i s = .next t → R s t) (agent : ∀ s u, agentStep s = .next u → R s u.st)
    (hold : ∀ s t u, agentStep s = .next u → u.held = true → R u.st t → R s t)
    {s t : State} (h : step s = .next t) : R s t := by
  have turns (s t) (h : agentTurn s = .next t) : R s t := by
    obtain ⟨u, hu, ⟨-, rfl⟩ | ⟨held, hw⟩⟩ := agentTurn_eq_next h
    · exact agent s u hu
    · obtain ⟨i, rest, -, hi⟩ | ⟨-, ht⟩ := serveWaiting_eq_next hw
      · exact hold s t u hu held (environment u.st t rest u.st.sched (item i _ t hi))
      · cases ht; exact agent s u hu
  obtain ⟨-, h⟩ | ⟨-, h⟩ := step_eq_next h
  · obtain ⟨-, rfl⟩ | ⟨i, rest, -, hi⟩ := fetchNext_eq_next h
    · exact unchanged _
    · exact environment s t rest s.sched (item i _ t hi)
  · obtain ⟨rest, ht | ⟨i, bytes, -, hi⟩⟩ := inProgress_eq_next h
    · exact environment s t s.trace rest (turns _ t ht)
    · exact environment s t bytes rest (item i _ t hi)

end Sys2Proof.Machine
end

/-! ## O12, O15, O16: the TX ring along every step (R122, R126, R134, R138) -/

section
namespace Sys2Proof.Machine

/-! ### What can happen to the TX ring -/

/-- The TX ring with its enable and the wire-out trace (R22, R43). -/
structure TxSide where
  ring : RingView
  enabled : Bool
  out : List Byte

def State.txSide (s : State) : TxSide := ⟨s.txRing, s.txie, s.wireOut⟩

namespace TxSide

/-- TXW.commit (R122). -/
def commit (x : TxSide) (b : Byte) : TxSide := { x with ring := x.ring.push b, enabled := true }

/-- TXPOP on a ring that is not empty (R126). -/
def pop (x : TxSide) : TxSide where
  ring := x.ring.pop
  enabled := if x.ring.pop.tail = x.ring.head then false else x.enabled
  out := x.out ++ [x.ring.cell x.ring.tail]

/-- The bytes emitted followed by the bytes buffered (R134). -/
def stream (x : TxSide) : List Byte := x.out ++ x.ring.bytes

/-- The streaming contract (R138). -/
def Streams (x : TxSide) : Prop := (x.enabled = true ↔ x.ring.head ≠ x.ring.tail) ∧ x.ring.Written

end TxSide

/-- Everything a step can do to the TX ring with the one-step commit and the exact view. -/
inductive TxMove (x : TxSide) : TxSide → Prop
  | kept : TxMove x x
  | committed (b : Byte) (room : x.ring.full = false) : TxMove x (x.commit b)
  | foundEmpty (empty : x.ring.head = x.ring.tail) : TxMove x { x with enabled := false }
  | popped (nonempty : x.ring.head ≠ x.ring.tail) : TxMove x x.pop
  | reset : TxMove x ⟨x.ring.cleared, false, []⟩

theorem TxMove.of_eq {x y : TxSide} (h : y = x) : TxMove x y := h ▸ .kept

theorem streaming_iff (s : State) : Streaming s ↔ s.txSide.Streams :=
  ⟨fun h => ⟨h.enabled, h.written⟩, fun ⟨enabled, written⟩ => ⟨enabled, written⟩⟩

theorem afterMainTxw_txSide (r : TxwResult × State) : (afterMainTxw r).txSide = r.2.txSide := by
  rw [afterMainTxw_eq]; rfl

theorem afterResendTxw_txSide (c : ResendCtx) (r : TxwResult × State) :
    (afterResendTxw c r).st.txSide = r.2.txSide := by
  unfold afterResendTxw; split <;> rfl

/-- With the one-step commit a TXW in flight is at its wait step (R121). -/
theorem TxwSound.stage_of_oneStep {s : State} {c : TxwCtx} (h : TxwSound s c) (oneStep : s.cfg.txwSplitCommit = false) :
    c.stage = .wait := by
  obtain ⟨b, stage⟩ := c
  cases stage with
  | wait => rfl
  | _ => simp [TxwSound, oneStep] at h

/-- A TXW step commits its byte into a ring with room, or leaves the TX ring alone (R121, R122). -/
theorem txwStep_txMove {s : State} {c : TxwCtx} {r : TxwResult × State} (plain : Plain s) (hc : TxwSound s c)
    (h : txwStep c s = .next r) : TxMove s.txSide r.2.txSide := by
  obtain ⟨oneStep, exactView⟩ := plain
  have stage := hc.stage_of_oneStep oneStep
  have seen : s.txTailSeen = s.txt := seenIndex_exact exactView _ _
  have read := txTailRead_exact exactView
  unfold txwStep at h
  simp only [stage, seen, read] at h
  split at h
  · split at h <;> cases h <;> exact .kept
  · rename_i room
    obtain ⟨m, hm, ht⟩ := andThen_eq_next.1 h
    obtain ⟨-, rfl⟩ := writeCell_eq_next hm
    cases ht
    exact .committed c.b (Bool.eq_false_iff.2 room)

/-- So does the first step of a TXW. -/
theorem txwFirst_txMove {s : State} {b : Byte} {r : TxwResult × State} (plain : Plain s)
    (h : txwFirst b s = .next r) : TxMove s.txSide r.2.txSide := by
  obtain ⟨split, -⟩ | ⟨oneStep, he⟩ := txwFirst_eq b s
  · simp [plain.1] at split
  · exact txwStep_txMove (c := ⟨b, .wait⟩) plain oneStep (he.symm.trans h)

/-- A pop of the TX ring under the exact view (R126, R127). -/
theorem popTx_txMove {s t : State} (exactView : s.cfg.xsideView = .exact) (h : popTx s = .next t) :
    TxMove s.txSide t.txSide := by
  have seen : s.txHeadSeen = s.txh := seenIndex_exact exactView _ _
  have read := txHeadRead_exact exactView
  obtain ⟨empty, rfl⟩ | ⟨nonempty, -, rfl⟩ := popTx_eq_next h
  · rw [read]; exact .foundEmpty (seen.symm.trans empty)
  · rw [read, seen]; exact .popped fun empty => nonempty (seen.trans empty)

/-- What is within the frame of an item but TXW and TXPOP leaves the TX ring alone (R20). -/
theorem ItemFrame.txSide {i : Instr} {s t : State} (h : ItemFrame i s t) (notTxw : ∀ b, i ≠ .txw b)
    (notPop : i ≠ .txpop) : t.txSide = s.txSide := by
  obtain ⟨cfg, -, -, epoch, -, -, stored, popped, enabled, -⟩ := h
  simp only [State.txSide, State.txRing, cfg, epoch, stored notTxw, popped notPop, enabled notTxw notPop]

/-- What an item can do to the TX ring. -/
theorem exec_txMove {i : Instr} {s t : State} (plain : Plain s) (h : exec i s = .next t) :
    TxMove s.txSide t.txSide := by
  cases i with
  | txw b =>
    unfold exec execTxw at h
    obtain ⟨-, -, ⟨-, rfl⟩ | ⟨-, hb⟩⟩ := issue_eq_next h
    · exact .kept
    · obtain ⟨r, first, ht⟩ := andThen_eq_next.1 hb
      cases ht
      rw [afterMainTxw_txSide]
      exact txwFirst_txMove plain first
  | txpop =>
    unfold exec execTxpop at h
    obtain ⟨-, ⟨-, hb⟩ | ⟨-, rfl⟩⟩ := serve_eq_next h
    · split at hb
      · exact popTx_txMove plain.2 hb
      · cases hb; exact .kept
    · exact .kept
  | rst => cases h; exact .reset
  | _ => exact .of_eq (((exec_effect h).frame nofun).txSide nofun nofun)

/-- What a RESEND step can do to the TX ring (R195). -/
theorem resendStep_txMove {s : State} {c : ResendCtx} {u : Turn} (inv : BlockInv s) (plain : Plain s)
    (line : s.line = .resend c) (h : resendStep c s = .next u) : TxMove s.txSide u.st.txSide := by
  have sound := inv.line
  simp only [LineSound, line] at sound
  obtain ⟨-, -, -, tx⟩ := sound
  obtain ⟨-, r, hr, rfl⟩ | ⟨-, rfl⟩ := resendStep_eq_next h
  · rw [afterResendTxw_txSide]
    obtain ⟨-, -, first⟩ | ⟨x, hx, next⟩ := resendTxw_eq_next hr
    · exact txwFirst_txMove plain first
    · exact txwStep_txMove plain (tx x hx) next
  · exact .kept

/-- What an agent's step can do to the TX ring. -/
theorem agentStep_txMove {s : State} {u : Turn} (inv : BlockInv s) (plain : Plain s) (h : agentStep s = .next u) :
    TxMove s.txSide u.st.txSide := by
  have main := inv.main
  unfold MainSound at main
  obtain ⟨c, line, hr⟩ | ⟨-, ⟨-, rfl⟩ | ⟨i, -, hi⟩ | ⟨c, r, hm, hr, ht⟩ | ⟨f, stage, -, hs⟩ | ⟨c, -, hr⟩⟩ :=
    agentStep_eq_next h
  · exact resendStep_txMove inv plain line hr
  · exact .kept
  · exact exec_txMove (s := { s with main := .idle }) plain hi
  · rw [hm] at main
    rw [ht, afterMainTxw_txSide]
    exact txwStep_txMove plain main hr
  · obtain ⟨_, -, -, ht⟩ | ⟨-, ht⟩ | ⟨-, ht⟩ := storeStep_eq_next hs <;> rw [ht] <;> exact .kept
  · rw [recvStep_recvOnly hr]; exact .kept

/-- `TxMove` says everything a step can do to the TX ring. -/
theorem step_txMove {s t : State} (inv : BlockInv s) (plain : Plain s) (h : step s = .next t) :
    TxMove s.txSide t.txSide := by
  refine step_relates (R := fun s t => BlockInv s → Plain s → TxMove s.txSide t.txSide)
    ?unchanged ?environment ?item ?agent ?hold h inv plain
  case unchanged => exact fun _ _ _ => .kept
  case environment => exact fun s t trace sched hR inv => hR (inv.environment s.abort trace sched)
  case item => exact fun _ _ _ hi _ plain => exec_txMove plain hi
  case agent => exact fun _ _ hu inv plain => agentStep_txMove inv plain hu
  case hold =>
    intro s t u hu held hR inv plain
    obtain ⟨main, line, same⟩ := agentStep_of_held plain.2 hu held
    have move := hR (agentStep_sound inv hu) (by rw [Plain, agentStep_cfg hu]; exact plain)
    rw [same] at move
    exact move

/-! ### Byte order (R134) -/

/-- A commit adds its byte at the end of the stream. -/
theorem TxSide.stream_commit {x : TxSide} (h : x.ring.InRange) (room : x.ring.full = false) (b : Byte) :
    (x.commit b).stream = x.stream ++ [b] := by
  simp [stream, commit, h.bytes_push room]

/-- A pop moves the oldest buffered byte to the end of the emitted ones. -/
theorem TxSide.stream_pop {x : TxSide} (h : x.ring.InRange) (nonempty : x.ring.head ≠ x.ring.tail) :
    x.pop.stream = x.stream := by
  simp [stream, pop, h.bytes_pop nonempty]

/-- Everything that can happen to the TX ring but a reset adds at most one byte to the stream, at its end. -/
theorem TxMove.inOrder {x y : TxSide} (h : TxMove x y) (inRange : x.ring.InRange)
    (noReset : y.ring.epoch = x.ring.epoch) :
    ∃ new : List Byte, new.length ≤ 1 ∧ y.stream = x.stream ++ new ∧ (new = [] ↔ y.ring.head = x.ring.head) := by
  cases h with
  | kept => exact ⟨[], by simp⟩
  | committed b room =>
    have moved : (x.commit b).ring.head ≠ x.ring.head := inRange.next_ne inRange.head
    exact ⟨[b], le_rfl, TxSide.stream_commit inRange room b, by simp [moved]⟩
  | foundEmpty => exact ⟨[], by simp [TxSide.stream]⟩
  | popped nonempty =>
    exact ⟨[], by simp, by simp [TxSide.stream_pop inRange nonempty], by simp [TxSide.pop, RingView.pop]⟩
  | reset => exact absurd noReset (Nat.succ_ne_self _)

/-- Settles O15: a step commits one byte, or pops one, or leaves the order as it was. -/
theorem txBytesStayInOrder : Obligations.TxBytesStayInOrder := by
  unfold Obligations.TxBytesStayInOrder
  intro s t inv plain h noReset
  rw [bufferedTx_eq, bufferedTx_eq]
  exact (step_txMove inv plain h).inOrder inv.stored.rings.1 noReset

/-! ### The streaming contract (R138) -/

/-- Everything that can happen to the TX ring keeps the streaming contract. -/
theorem TxMove.streams {x y : TxSide} (h : TxMove x y) (inRange : x.ring.InRange) (hx : x.Streams) : y.Streams := by
  obtain ⟨enabled, written⟩ := hx
  cases h with
  | kept => exact ⟨enabled, written⟩
  | committed b room =>
    have nonempty : nextSlot x.ring.head x.ring.cap ≠ x.ring.tail := by simpa [RingView.full, ringFull] using room
    exact ⟨by simpa [TxSide.commit, RingView.push] using nonempty, written.push inRange room b⟩
  | foundEmpty empty => exact ⟨by simpa using empty, written⟩
  | popped nonempty =>
    refine ⟨?_, written.pop inRange nonempty⟩
    rw [ne_comm]
    simp [TxSide.pop, RingView.pop, enabled.2 nonempty]
  | reset => exact ⟨by simp [RingView.cleared], fun k hk => by simp [RingView.cleared, occ] at hk⟩

/-- Settles O16: a commit enables the sender and leaves a byte, and a pop disables it with the last one. -/
theorem stepKeepsStreaming : Obligations.StepKeepsStreaming := by
  unfold Obligations.StepKeepsStreaming
  intro s t inv plain streaming h
  rw [streaming_iff] at streaming ⊢
  exact (step_txMove inv plain h).streams inv.stored.rings.1 streaming

end Sys2Proof.Machine
end

/-! ## O20: the RX ring along every step (R128, R129, R137, R171) -/

section
namespace Sys2Proof.Machine

/-! ### What can happen to the RX ring -/

/-- The RX ring with the wire-in trace (R21, R43). -/
structure RxSide where
  ring : RingView
  delivered : List Byte

def State.rxSide (s : State) : RxSide := ⟨s.rxRing, s.wireIn⟩

/-- Everything a step can do to the RX ring with the exact view. -/
inductive RxMove (x : RxSide) : RxSide → Prop
  | kept : RxMove x x
  | dropped (d : Byte) (full : x.ring.full = true) : RxMove x { x with delivered := x.delivered ++ [d] }
  | pushed (d : Byte) (room : x.ring.full = false) : RxMove x ⟨x.ring.push d, x.delivered ++ [d]⟩
  | taken (nonempty : x.ring.head ≠ x.ring.tail) : RxMove x { x with ring := x.ring.pop }
  | reset : RxMove x ⟨x.ring.cleared, []⟩

theorem RxMove.of_eq {x y : RxSide} (h : y = x) : RxMove x y := h ▸ .kept

/-- A push under the exact view: the byte is dropped on a full ring, else stored (R128). -/
theorem pushRx_rxMove {s t : State} {d : Byte} (exactView : s.cfg.xsideView = .exact) (h : pushRx d s = .next t) :
    RxMove s.rxSide t.rxSide := by
  have seen : s.rxTailSeen = s.rxt := seenIndex_exact exactView _ _
  have read := rxTailRead_exact exactView
  obtain ⟨full, rfl⟩ | ⟨room, -, rfl⟩ := pushRx_eq_next h
  · rw [read]; exact .dropped d ((RingView.full_iff_next _).2 (full.trans seen))
  · rw [read]
    exact .pushed d (Bool.eq_false_iff.2 fun full => room (((RingView.full_iff_next _).1 full).trans seen.symm))

/-- RXR under the exact view takes a byte only from a ring that is not empty (R129). -/
theorem execRxr_rxMove {s t : State} (exactView : s.cfg.xsideView = .exact) (h : execRxr s = .next t) :
    RxMove s.rxSide t.rxSide := by
  have seen : s.rxHeadSeen = s.rxh := seenIndex_exact exactView _ _
  have read := rxHeadRead_exact exactView
  obtain ⟨-, -, ⟨-, rfl⟩ | ⟨-, hb⟩⟩ := issue_eq_next h
  · exact .kept
  · simp only [read, seen] at hb
    split at hb
    · cases hb; exact .kept
    · rename_i nonempty
      obtain ⟨⟨d, u⟩, hd, ht⟩ := andThen_eq_next.1 hb
      obtain ⟨-, -, rfl⟩ := takeRx_eq_next hd
      cases ht
      exact .taken nonempty

/-- What is within the frame of an item but RXR and RXPUSH leaves the RX ring alone (R20). -/
theorem ItemFrame.rxSide {i : Instr} {s t : State} (h : ItemFrame i s t) (notRxr : i ≠ .rxr)
    (notPush : ∀ d, i ≠ .rxpush d) : t.rxSide = s.rxSide := by
  obtain ⟨cfg, -, -, epoch, pushed, taken, -⟩ := h
  simp only [State.rxSide, State.rxRing, cfg, epoch, pushed notPush, taken notRxr]

/-- What an item can do to the RX ring. -/
theorem exec_rxMove {i : Instr} {s t : State} (exactView : s.cfg.xsideView = .exact) (h : exec i s = .next t) :
    RxMove s.rxSide t.rxSide := by
  cases i with
  | rxr => exact execRxr_rxMove exactView h
  | rxpush d =>
    unfold exec execRxpush at h
    obtain ⟨-, ⟨-, hb⟩ | ⟨-, rfl⟩⟩ := serve_eq_next h
    · exact pushRx_rxMove exactView hb
    · exact .kept
  | rst => cases h; exact .reset
  | _ => exact .of_eq (((exec_effect h).frame nofun).rxSide nofun nofun)

/-- What a TX producer writes leaves the RX ring alone (R20). -/
theorem TxProducerOnly.rxSide {s t : State} (h : TxProducerOnly s t) : t.rxSide = s.rxSide := by rw [h]; rfl

/-- After its byte is taken a RECV leaves the RX ring alone (R171). -/
theorem recvTaken_rxSide {c : RecvCtx} {s t : State} (h : recvTaken c s = .next t) : t.rxSide = s.rxSide := by
  obtain ⟨_, -, ⟨-, rfl⟩ | ⟨-, hcomplete⟩ | ⟨-, rfl⟩⟩ := recvTaken_eq_next h
  · rfl
  · obtain rfl | ⟨_, -, rfl⟩ := recvComplete_eq_next hcomplete <;> rfl
  · rfl

/-- A RECV step takes a byte only where its poll found one (R171). -/
theorem recvStep_rxMove {s t : State} {c : RecvCtx} (exactView : s.cfg.xsideView = .exact) (hc : RecvSound s c)
    (h : recvStep c s = .next t) : RxMove s.rxSide t.rxSide := by
  have read := rxHeadRead_exact exactView
  unfold recvStep at h
  split at h
  · cases h; rw [recvPoll, read]; exact .kept
  · rename_i take
    obtain ⟨-, -, htaken⟩ := recvTake_eq_next h
    rw [recvTaken_rxSide htaken, read]
    exact .taken (hc.nonempty exactView take)
  · cases h
    unfold recvYield
    split <;> exact .kept

/-- What an agent's step can do to the RX ring. -/
theorem agentStep_rxMove {s : State} {u : Turn} (inv : BlockInv s) (exactView : s.cfg.xsideView = .exact)
    (h : agentStep s = .next u) : RxMove s.rxSide u.st.rxSide := by
  have main := inv.main
  unfold MainSound at main
  obtain ⟨c, -, hr⟩ | ⟨-, ⟨-, rfl⟩ | ⟨i, -, hi⟩ | ⟨c, r, -, hr, ht⟩ | ⟨f, stage, -, hs⟩ | ⟨c, hm, hr⟩⟩ :=
    agentStep_eq_next h
  · obtain ⟨t, _, only, ht⟩ := resendStep_txProducerOnly hr
    rw [ht]; exact .of_eq only.rxSide
  · exact .kept
  · exact exec_rxMove (s := { s with main := .idle }) exactView hi
  · rw [ht, afterMainTxw_eq]; exact .of_eq (txwStep_txProducerOnly hr).rxSide
  · obtain ⟨_, -, -, ht⟩ | ⟨-, ht⟩ | ⟨-, ht⟩ := storeStep_eq_next hs <;> rw [ht] <;> exact .kept
  · rw [hm] at main
    exact recvStep_rxMove exactView main hr

/-- `RxMove` says everything a step can do to the RX ring. -/
theorem step_rxMove {s t : State} (inv : BlockInv s) (exactView : s.cfg.xsideView = .exact) (h : step s = .next t) :
    RxMove s.rxSide t.rxSide := by
  refine step_relates (R := fun s t => BlockInv s → s.cfg.xsideView = .exact → RxMove s.rxSide t.rxSide)
    ?unchanged ?environment ?item ?agent ?hold h inv exactView
  case unchanged => exact fun _ _ _ => .kept
  case environment => exact fun s t trace sched hR inv => hR (inv.environment s.abort trace sched)
  case item => exact fun _ _ _ hi _ exactView => exec_rxMove exactView hi
  case agent => exact fun _ _ hu inv exactView => agentStep_rxMove inv exactView hu
  case hold =>
    intro s t u hu held hR inv exactView
    obtain ⟨main, line, same⟩ := agentStep_of_held exactView hu held
    have move := hR (agentStep_sound inv hu) ((agentStep_cfg hu).symm ▸ exactView)
    rw [same] at move
    exact move

/-! ### Byte order (R137) -/

/-- A ring is full exactly when it holds `N` bytes (R33). -/
theorem RingView.InRange.full_iff_occ {r : RingView} (h : r.InRange) :
    r.full = true ↔ occ r.head r.tail r.cap = r.cap - 1 := ringFull_iff_occ h.head h.tail h.two

/-- Everything that can happen to the RX ring but a reset takes at most the oldest byte and adds at most the byte
delivered, which a full ring drops. -/
theorem RxMove.inOrder {x y : RxSide} (h : RxMove x y) (inRange : x.ring.InRange)
    (noReset : y.ring.epoch = x.ring.epoch) :
    ∃ taken pushed : List Byte, taken.length ≤ 1 ∧ pushed.length ≤ 1 ∧ y.delivered = x.delivered ++ pushed ∧
      taken ++ y.ring.bytes =
        x.ring.bytes ++ if occ x.ring.head x.ring.tail x.ring.cap = x.ring.cap - 1 then [] else pushed := by
  simp only [← inRange.full_iff_occ]
  cases h with
  | kept => exact ⟨[], [], by simp⟩
  | dropped d full => exact ⟨[], [d], by simp [full]⟩
  | pushed d room => exact ⟨[], [d], by simp [room, inRange.bytes_push room]⟩
  | taken nonempty => exact ⟨[x.ring.cell x.ring.tail], [], by simp [inRange.bytes_pop nonempty]⟩
  | reset => exact absurd noReset (Nat.succ_ne_self _)

/-- Settles O20: a step takes one byte, or delivers one, or leaves the RX ring as it was. -/
theorem rxBytesStayInOrder : Obligations.RxBytesStayInOrder := by
  unfold Obligations.RxBytesStayInOrder
  intro s t inv exactView h noReset
  rw [bufferedRx_eq, bufferedRx_eq]
  exact (step_rxMove inv exactView h).inOrder inv.stored.rings.2 noReset

end Sys2Proof.Machine
end

/-! ## O12: a TXPOP lifts a held TXW of the main side (R121, R122, R124, R126) -/

section
namespace Sys2Proof.Machine

/-- TXW.wait with room in the ring is TXW.commit (R122). -/
theorem txwStep_wait_room {s : State} (b : Byte) (inRange : s.txh < s.cfg.txCap)
    (room : ringFull s.txh s.txTailSeen s.cfg.txCap = false) :
    txwStep ⟨b, .wait⟩ s = .next (.done .ok, s.txTailRead.committed b) := by
  have head : s.txTailRead.txh < s.txTailRead.cfg.txCap := by simpa using inRange
  simp [txwStep, room, txwCommit_next head]

/-- TXW.wait on a full ring holds or aborts (R121). -/
theorem txwStep_wait_full {s : State} (b : Byte) (full : ringFull s.txh s.txTailSeen s.cfg.txCap = true) :
    txwStep ⟨b, .wait⟩ s =
      .next (if s.abort = true then .done .aborted else .going ⟨b, .wait⟩ true, s.txTailRead) := by
  simp only [txwStep, full, if_true]
  split <;> rfl

/-- A TXW of the main side that finishes returns its status. -/
theorem afterMainTxw_done (st : Status) (t : State) : afterMainTxw (.done st, t) = t.finish st .nothing := rfl

/-- A TXW of the main side that goes on is in flight. -/
theorem afterMainTxw_going (x : TxwCtx) (held : Bool) (t : State) :
    afterMainTxw (.going x held, t) = { t with main := .txw x } := rfl

/-- The main side's turn when its TXW finishes. -/
theorem agentStep_txw_done {s t : State} {c : TxwCtx} {st : Status} (line : s.line = .idle) (main : s.main = .txw c)
    (h : txwStep c s = .next (.done st, t)) : agentStep s = .next ⟨t.finish st .nothing, false⟩ := by
  simp [agentStep, line, main, h, afterMainTxw_done]

/-- The main side's turn when its TXW goes on. -/
theorem agentStep_txw_going {s t : State} {c x : TxwCtx} {held : Bool} (line : s.line = .idle) (main : s.main = .txw c)
    (h : txwStep c s = .next (.going x held, t)) : agentStep s = .next ⟨{ t with main := .txw x }, held⟩ := by
  simp [agentStep, line, main, h, afterMainTxw_going]

/-- With no line-side operation in progress every line event may begin (R70 item 2). -/
theorem mayBegin_of_idle {s : State} (line : s.line = .idle) (i : Instr) : mayBegin s i = true :=
  (mayBegin_iff s i).2 (.inl line)

/-- Under the exact view a pop of a TX ring that is not empty pops its side, and leaves what the main side has in flight.
-/
theorem popTx_of_nonempty_exact {s : State} (exactView : s.cfg.xsideView = .exact) (inRange : s.txt < s.cfg.txCap)
    (nonempty : s.txh ≠ s.txt) :
    ∃ t, popTx s = .next t ∧ t.txSide = s.txSide.pop ∧ t.cfg = s.cfg ∧ t.main = s.main ∧ t.line = s.line ∧
      t.rsp = s.rsp := by
  have seen : s.txHeadSeen = s.txh := seenIndex_exact exactView _ _
  refine ⟨_, popTx_of_nonempty (seen ▸ nonempty) inRange, ?_⟩
  rw [txHeadRead_exact exactView, seen]
  exact ⟨rfl, rfl, rfl, rfl, rfl⟩

/-- Settles O12: the pop moves the tail on, so the full ring has room for the byte of the TXW. -/
theorem txpopLiftsHeldTxw : Obligations.TxpopLiftsHeldTxw := by
  unfold Obligations.TxpopLiftsHeldTxw
  intro s b inv plain up line main full enabled
  have inRange := inv.stored.rings.1
  have nonempty := inRange.nonempty_of_full full
  obtain ⟨t, popped, side, cfg, mainT, lineT, rsp⟩ := popTx_of_nonempty_exact plain.2 inRange.tail nonempty
  have ring : t.txRing = s.txRing.pop := congrArg TxSide.ring side
  have room : t.txRing.full = false := ring ▸ inRange.room_of_pop full
  have inRangeT : t.txRing.InRange := ring ▸ inRange.pop
  have exactT : t.cfg.xsideView = .exact := cfg ▸ plain.2
  have seen : t.txTailSeen = t.txt := seenIndex_exact exactT _ _
  have commits : txwStep ⟨b, .wait⟩ t = .next (.done .ok, t.committed b) := by
    rw [txwStep_wait_room b inRangeT.head (seen ▸ room), txTailRead_exact exactT]
  refine ⟨t, ⟨(t.committed b).finish .ok .nothing, false⟩, ?pop, ?commit, rfl, rfl, ?rsp, rfl, ?order⟩
  case pop => exact (exec_txpop_served up (mayBegin_of_idle line _) enabled).trans popped
  case commit => exact agentStep_txw_done (lineT.trans line) (mainT.trans main) commits
  case rsp => exact congrArg (· ++ _) rsp
  case order =>
    rw [bufferedTx_eq, bufferedTx_eq]
    calc (t.txSide.commit b).stream
        = t.txSide.stream ++ [b] := TxSide.stream_commit inRangeT room b
      _ = s.txSide.stream ++ [b] := by rw [side, TxSide.stream_pop inRange nonempty]

end Sys2Proof.Machine
end

/-! ## O10, O11, O13, O14: what TXW and TXPOP write (R121 to R123, R126, R127) -/

section
namespace Sys2Proof.Machine

/-- With the one-step commit a TXW that may begin takes its wait step (R121). -/
theorem exec_txw_of_ready {s : State} (ready : Ready s) (oneStep : s.cfg.txwSplitCommit = false) (b : Byte) :
    exec (.txw b) s = andThen (txwStep ⟨b, .wait⟩ s) fun r => .next (afterMainTxw r) := by
  rw [exec, execTxw, issue_ready ready, txwFirst, oneStep]; rfl

/-- Which of the values that stay readable are kept depends on the parameters alone (R72). -/
theorem remember_of_cfg {s t : State} (h : t.cfg = s.cfg) (past : List Nat) (old : Nat) :
    remember t past old = remember s past old := by
  simp [remember, h]

/-- Settles O10: with room, the first step is the commit, and a write changes one cell. -/
theorem txwCommitStoresByte : Obligations.TxwCommitStoresByte := by
  unfold Obligations.TxwCommitStoresByte
  intro s b ready oneStep inRange room
  refine ⟨_, ?_, rfl, Mem.read?_write_same _ _ _, fun a other => Mem.read?_write_other _ _ other⟩
  have main : (s.txTailRead.committed b).main = .idle := (txTailRead_main s).trans ready.2.1
  rw [exec_txw_of_ready ready oneStep, txwStep_wait_room b inRange room, andThen_next, afterMainTxw_done,
    finish_of_idle main]
  simp [State.committed, State.setTxH, remember_of_cfg (txTailRead_cfg s), nextSlot]

/-- Settles O11: with the ring full, the first step is the hold or the abort. -/
theorem txwFullHoldsOrAborts : Obligations.TxwFullHoldsOrAborts := by
  unfold Obligations.TxwFullHoldsOrAborts
  intro s b ready oneStep full
  have main : s.txTailRead.main = .idle := (txTailRead_main s).trans ready.2.1
  rw [exec_txw_of_ready ready oneStep, txwStep_wait_full b full, andThen_next]
  refine ⟨fun low => ?hold, fun high => ?abort⟩
  case hold => simp [low, afterMainTxw_going]
  case abort => simp [high, afterMainTxw_done, finish_of_idle main]

/-- Putting in flight what is in flight changes nothing. -/
theorem with_main_self {s : State} {m : MainCtx} (h : s.main = m) : { s with main := m } = s := by subst h; rfl

/-- W2 holds, aborts or goes on by the tail seen (R123). -/
theorem agentStep_w2 {s : State} {b : Byte} {wh wn : Nat} (line : s.line = .idle)
    (main : s.main = .txw ⟨b, .w2 wh wn⟩) :
    agentStep s =
      if wn = s.txTailSeen then
        if s.abort = true then .next ⟨s.txTailRead.finish .aborted .nothing, false⟩ else .next ⟨s.txTailRead, true⟩
      else .next ⟨{ s.txTailRead with main := .txw ⟨b, .w3 wh wn⟩ }, false⟩ := by
  have mainRead : s.txTailRead.main = .txw ⟨b, .w2 wh wn⟩ := (txTailRead_main s).trans main
  by_cases full : wn = s.txTailSeen
  · rw [if_pos full]
    by_cases high : s.abort = true
    · rw [if_pos high]; exact agentStep_txw_done line main (by simp [txwStep, full, high])
    · rw [if_neg high]
      have holds : txwStep ⟨b, .w2 wh wn⟩ s = .next (.going ⟨b, .w2 wh wn⟩ true, s.txTailRead) := by
        simp [txwStep, full, high]
      rw [agentStep_txw_going line main holds, with_main_self mainRead]
  · rw [if_neg full]; exact agentStep_txw_going line main (by simp [txwStep, full])

/-- W3 stores the byte at the sampled head (R123). -/
theorem txwStep_w3 {s : State} {b : Byte} {wh wn : Nat} (inRange : wh < s.cfg.txCap) :
    txwStep ⟨b, .w3 wh wn⟩ s =
      .next (.going ⟨b, .w4 wh wn⟩ false, { s with txbuf := Mem.write s.txbuf wh b }) := by
  simp [txwStep, writeCell, inRange]

/-- Settles O13: W1 is the operation's meaning, and each later step is the main side's turn. -/
theorem txwSplitCommitSteps : Obligations.TxwSplitCommitSteps := by
  unfold Obligations.TxwSplitCommitSteps
  refine ⟨fun s b ready split => ?w1, fun s b wh wn line main => ?w2, fun s b wh wn line main inRange => ?w3,
    fun s b wh wn line main => ?w4, fun s b wh wn line main => ?w5⟩
  case w1 => rw [exec, execTxw, issue_ready ready, txwFirst, split]; rfl
  case w2 => exact agentStep_w2 line main
  case w3 => exact agentStep_txw_going line main (txwStep_w3 inRange)
  case w4 => exact agentStep_txw_going line main rfl
  case w5 => exact agentStep_txw_done line main rfl

/-- A pop of an empty TX ring only disables the sender (R127). -/
theorem popTx_of_empty {s : State} (empty : s.txHeadSeen = s.txt) :
    popTx s = .next { s.txHeadRead with txie := false } := by
  simp [popTx, empty]

/-- Settles O14: the pop of a ring that is not empty, of an empty one, and none while the source is disabled. -/
theorem txpopEmitsOldestByte : Obligations.TxpopEmitsOldestByte := by
  unfold Obligations.TxpopEmitsOldestByte
  rintro s ⟨up, line⟩
  have served := exec_txpop_served up (mayBegin_of_idle line .txpop)
  refine ⟨fun enabled nonempty inRange => ?emits, fun enabled empty => ?empties, fun disabled => ?notDelivered⟩
  case emits => rw [served enabled, popTx_of_nonempty nonempty inRange, enabled]; rfl
  case empties => rw [served enabled, popTx_of_empty empty]
  case notDelivered => simp [exec, execTxpop, serve_ready ⟨up, line⟩, disabled]

end Sys2Proof.Machine
end

/-! ## O17, O18, O19: what RXPUSH, RXR and the queries answer and write (R128, R129, R131, R133, R135, R136) -/

section
namespace Sys2Proof.Machine

/-- A push into a full RX ring drops its byte (R128). -/
theorem pushRx_of_full {s : State} (d : Byte) (full : nextSlot s.rxh s.cfg.rxCap = s.rxTailSeen) :
    pushRx d s = .next { s.rxTailRead with wireIn := s.wireIn ++ [d] } := by
  simp [pushRx, full]

/-- A push into an RX ring with room stores its byte at the head and moves the head on (R128). -/
theorem pushRx_of_room {s : State} (d : Byte) (inRange : s.rxh < s.cfg.rxCap)
    (room : nextSlot s.rxh s.cfg.rxCap ≠ s.rxTailSeen) :
    pushRx d s = .next
      { s.rxTailRead with
        wireIn := s.wireIn ++ [d], rxbuf := Mem.write s.rxbuf s.rxh d, rxh := nextSlot s.rxh s.cfg.rxCap
        pastRxH := remember s s.pastRxH s.rxh } := by
  obtain ⟨t, ht⟩ := pushRx_next (d := d) inRange
  obtain ⟨full, -⟩ | ⟨-, -, rfl⟩ := pushRx_eq_next ht
  · exact absurd full room
  · rw [ht]; simp [State.setRxH, remember]

/-- Settles O17: the push into a full ring, and into one with room, where a write changes one cell. -/
theorem rxpushStoresOrDrops : Obligations.RxpushStoresOrDrops := by
  unfold Obligations.RxpushStoresOrDrops
  intro s d ready inRange
  have served : exec (.rxpush d) s = pushRx d s := by rw [exec, execRxpush, serve_ready ready]
  refine ⟨fun full => ?drops, fun room => ⟨_, ?stores, rfl, Mem.read?_write_same _ _ _,
    fun a other => Mem.read?_write_other _ _ other⟩⟩
  case drops => rw [served, pushRx_of_full d full]
  case stores => rw [served, pushRx_of_room d inRange room]; rfl

/-- Settles O18: on an empty ring nothing is taken, else the byte at the tail. -/
theorem rxrReturnsOldestByte : Obligations.RxrReturnsOldestByte := by
  unfold Obligations.RxrReturnsOldestByte
  intro s ready
  have main : s.rxHeadRead.main = .idle := (rxHeadRead_main s).trans ready.2.1
  rw [exec, execRxr, issue_ready ready]
  refine ⟨fun empty => ?noData, fun nonempty inRange => ?byte⟩
  case noData => simp [empty, finish_of_idle main]
  case byte =>
    have tail : s.rxHeadRead.rxt < s.rxHeadRead.cfg.rxCap := by simpa using inRange
    have mainT (v : Nat) : (s.rxHeadRead.setRxT v).main = .idle := main
    simp only [rxHeadRead_rxt, nonempty, if_false, takeRx_next tail, andThen_next, finish_of_idle (mainT _)]
    simp [State.setRxT, remember_of_cfg (rxHeadRead_cfg s), nextSlot, cellValue]

/-- Settles O19: `occ` is the mathematical remainder, and `CAP - 1` is `N`. -/
theorem occupancyQueriesAnswer : Obligations.OccupancyQueriesAnswer := by
  unfold Obligations.OccupancyQueriesAnswer
  intro s ready
  have rxMain : s.rxHeadRead.main = .idle := (rxHeadRead_main s).trans ready.2.1
  have txMain : s.txTailRead.main = .idle := (txTailRead_main s).trans ready.2.1
  refine ⟨?rxocc, ?rxavl, ?txocc, ?txavl⟩
  case rxocc => rw [exec, execRxocc, issue_ready ready, finish_of_idle rxMain, rxHeadRead_rsp]; rfl
  case rxavl => rw [exec, execRxavl, issue_ready ready, finish_of_idle rxMain, rxHeadRead_rsp]; rfl
  case txocc => rw [exec, execTxocc, issue_ready ready, finish_of_idle txMain, txTailRead_rsp]; rfl
  case txavl => rw [exec, execTxavl, issue_ready ready, finish_of_idle txMain, txTailRead_rsp]; rfl

end Sys2Proof.Machine
end

/-! ## O27, O28: the recommended checksum function (R152, R153) -/

section
namespace Sys2Proof.Machine

/-! ### One bit -/

/-- R152: one bit of XMODEM is a shift, and the polynomial where the top bit goes out. -/
theorem xmodemBit_eq (c : Half) : xmodemBit c = c <<< 1 ^^^ bif c.msb then 0x1021#16 else 0#16 := by
  cases top : c.msb <;> simp [xmodemBit, top]

/-- One bit of XMODEM is linear. -/
theorem xmodemBit_xor (a b : Half) : xmodemBit (a ^^^ b) = xmodemBit a ^^^ xmodemBit b := by
  have carried : ∀ x y : Bool, (bif x ^^ y then 0x1021#16 else 0#16) =
      (bif x then 0x1021#16 else 0#16) ^^^ bif y then 0x1021#16 else 0#16 := by decide
  simp only [xmodemBit_eq, BitVec.shiftLeft_xor_distrib, BitVec.msb_xor, carried]
  ac_rfl

/-- The bit that goes out of the top comes in at the bottom: the polynomial is odd. -/
theorem xmodemBit_lsb (c : Half) : (xmodemBit c).getLsbD 0 = c.msb := by
  rw [xmodemBit_eq]
  cases c.msb <;> simp

/-- One bit of XMODEM loses nothing: the top bit is read off the result, and the other bits are shifted. -/
theorem xmodemBit_injective : Function.Injective xmodemBit := by
  intro a b h
  have top : a.msb = b.msb := by rw [← xmodemBit_lsb a, h, xmodemBit_lsb]
  have shifted : a <<< 1 = b <<< 1 := by simpa [xmodemBit_eq, top] using h
  have low := congrArg BitVec.toNat shifted
  simp only [BitVec.toNat_shiftLeft, BitVec.msb_eq_decide, decide_eq_decide] at low top
  exact BitVec.eq_of_toNat_eq (by omega)

/-! ### Several bits -/

/-- Repeating a linear step is linear. -/
theorem repeat_xor {f : Half → Half} (linear : ∀ a b, f (a ^^^ b) = f a ^^^ f b) (n : Nat) (a b : Half) :
    Nat.repeat f n (a ^^^ b) = Nat.repeat f n a ^^^ Nat.repeat f n b := by
  induction n with
  | zero => rfl
  | succ n ih => simp only [Nat.repeat, ih, linear]

/-- Repeating a step that loses nothing loses nothing. -/
theorem repeat_injective {α : Type} {f : α → α} (inj : Function.Injective f) (n : Nat) :
    Function.Injective (Nat.repeat f n) := by
  induction n with
  | zero => exact fun _ _ h => h
  | succ n ih => exact fun _ _ h => ih (inj h)

/-- While no bit goes out of the top, the bits of XMODEM only shift. -/
theorem repeat_xmodemBit_of_small {c : Half} {n : Nat} (small : c.toNat * 2 ^ n < 2 ^ 16) :
    Nat.repeat xmodemBit n c = c <<< n := by
  induction n with
  | zero => simp [Nat.repeat]
  | succ n ih =>
    rw [Nat.pow_succ, ← Nat.mul_assoc] at small
    have top : (c <<< n).msb = false := by
      rw [BitVec.msb_eq_false_iff_two_mul_lt, BitVec.toNat_shiftLeft, Nat.shiftLeft_eq]
      omega
    simp [Nat.repeat, ih (by omega), xmodemBit_eq, top, BitVec.shiftLeft_add]

/-! ### One byte -/

/-- R152: one byte of XMODEM is eight bits of the value so far and eight bits of the byte. -/
theorem xmodemByte_eq (c : Half) (b : Byte) :
    xmodemByte c b = Nat.repeat xmodemBit 8 c ^^^ Nat.repeat xmodemBit 8 (b.setWidth 16 <<< 8) :=
  repeat_xor xmodemBit_xor 8 _ _

/-- A byte in the top 8 bits is that byte. -/
theorem topByte_injective : Function.Injective fun b : Byte => (b.setWidth 16 <<< 8 : Half) := by
  intro a b h
  have h := congrArg BitVec.toNat h
  simp only [BitVec.toNat_shiftLeft, BitVec.toNat_setWidth] at h
  exact BitVec.eq_of_toNat_eq (by omega)

/-- From one value, two bytes that differ lead to two values. -/
theorem xmodemByte_byte_injective (c : Half) : Function.Injective (xmodemByte c) := by
  intro a b h
  rw [xmodemByte_eq, xmodemByte_eq, BitVec.xor_right_inj] at h
  exact topByte_injective (repeat_injective xmodemBit_injective 8 h)

/-- Under one byte, two values that differ lead to two values. -/
theorem xmodemByte_value_injective (b : Byte) : Function.Injective fun c => xmodemByte c b := by
  intro c d h
  simp only [xmodemByte_eq, BitVec.xor_left_inj] at h
  exact repeat_injective xmodemBit_injective 8 h

/-! ### Sequences -/

/-- Two values that differ stay different over a sequence. -/
theorem foldl_xmodemByte_injective (bytes : List Byte) : Function.Injective fun c => bytes.foldl xmodemByte c := by
  induction bytes with
  | nil => exact fun _ _ h => h
  | cons b bytes ih => exact fun _ _ h => xmodemByte_value_injective b (ih h)

/-- Settles O27: the bytes before the change lead to one value, the changed byte to two, and the bytes after it keep
them apart. -/
theorem xmodemTellsOneByteChange : Obligations.XmodemTellsOneByteChange := by
  unfold Obligations.XmodemTellsOneByteChange
  intro pre post a b changed same
  simp only [xmodem, List.foldl_append, List.foldl_cons] at same
  exact changed (xmodemByte_byte_injective _ (foldl_xmodemByte_injective post same))

/-- R152: a byte into the top 8 bits of a value meets its high byte, and leaves its low byte. -/
theorem xor_topByte (c : Half) (b : Byte) :
    c ^^^ b.setWidth 16 <<< 8 = (hiByte c ^^^ b).setWidth 16 <<< 8 ^^^ (loByte c).setWidth 16 := by
  ext i hi
  by_cases low : i < 8
  · simp [hiByte, loByte, low, BitVec.getLsbD_eq_getElem hi]
  · have high : i - 8 < 8 := by omega
    simp [hiByte, loByte, low, high, Nat.add_sub_cancel' (Nat.le_of_not_lt low), BitVec.getLsbD_eq_getElem hi]

/-- The low byte, moved up by eight bits, is what a shift of the value by eight bits keeps. -/
theorem loByte_shiftLeft (c : Half) : (loByte c).setWidth 16 <<< 8 = c <<< 8 := by
  ext i hi
  have low : i - 8 < 8 := by omega
  have inRange : i - 8 < 16 := by omega
  simp [loByte, low, BitVec.getLsbD_eq_getElem inRange]

/-- Eight bits of the low byte of a value are that byte in the top 8 bits: no bit goes out. -/
theorem repeat_xmodemBit_loByte (c : Half) : Nat.repeat xmodemBit 8 ((loByte c).setWidth 16) = c <<< 8 := by
  have small : ((loByte c).setWidth 16).toNat * 2 ^ 8 < 2 ^ 16 := by
    rw [BitVec.toNat_setWidth_of_le (by decide)]
    exact Nat.mul_lt_mul_of_pos_right (loByte c).isLt (by decide)
  rw [repeat_xmodemBit_of_small small, loByte_shiftLeft]

/-- R152: the value of one byte. -/
theorem xmodem_singleton (b : Byte) : xmodem [b] = Nat.repeat xmodemBit 8 (b.setWidth 16 <<< 8) := by
  simp [xmodem, xmodemByte]

/-- R152: one more byte of a sequence is one more step of the fold. -/
theorem xmodem_snoc (s : List Byte) (b : Byte) : xmodem (s ++ [b]) = xmodemByte (xmodem s) b := by
  simp [xmodem]

/-- R152: of the eight bits of one more byte, those of the value's high byte and of the byte are a one-byte value, and
those of the value's low byte only shift. -/
theorem xmodemByte_table (c : Half) (b : Byte) : xmodemByte c b = xmodem [hiByte c ^^^ b] ^^^ (c <<< 8) :=
  calc xmodemByte c b
      = Nat.repeat xmodemBit 8 ((hiByte c ^^^ b).setWidth 16 <<< 8 ^^^ (loByte c).setWidth 16) := by
        rw [xmodemByte, xor_topByte]
    _ = Nat.repeat xmodemBit 8 ((hiByte c ^^^ b).setWidth 16 <<< 8) ^^^
          Nat.repeat xmodemBit 8 ((loByte c).setWidth 16) := repeat_xor xmodemBit_xor 8 _ _
    _ = xmodem [hiByte c ^^^ b] ^^^ (c <<< 8) := by rw [xmodem_singleton, repeat_xmodemBit_loByte]

/-- Settles O28: the table form of one byte, from the value of the sequence so far. -/
theorem xmodemTableForm : Obligations.XmodemTableForm := by
  unfold Obligations.XmodemTableForm
  exact fun s b => (xmodem_snoc s b).trans (xmodemByte_table (xmodem s) b)

end Sys2Proof.Machine
end

/-! ## O22 to O26: what CRC16, BUILD and UNPACK answer (R151, R155, R158 to R161) -/

section
namespace Sys2Proof.Machine

/-! ### CRC16 and BUILD -/

/-- R151, R155: a payload operand fits when it is at most `PAYLOAD_MAX` bytes long. -/
theorem payloadFits_iff {p : Config.Params} {bytes : List Byte} :
    payloadFits p bytes = true ↔ bytes.length ≤ p.payloadMax := decide_eq_true_iff

/-- R155: BUILD's frame of a payload of more than 255 bytes is the extended one. -/
theorem frameOf_ext {payload : List Byte} (p : Config.Params) (long : 255 < payload.length) :
    frameOf p payload = extFrame payload (crcOf p payload) := if_neg (Nat.not_le.2 long)

/-- R151: CRC16, when it may begin, answers by the length of its operand. -/
theorem exec_crc16_of_ready {s : State} (ready : Ready s) (bytes : List Byte) :
    exec (.crc16 bytes) s = .next { s with
      rsp := s.rsp ++ [if bytes.length ≤ s.cfg.payloadMax then ⟨.ok, .checksum (crcOf s.cfg bytes)⟩
        else ⟨.badOperand, .nothing⟩] } := by
  have ⟨_, main, _⟩ := ready
  rw [exec, execCrc16, issue_ready ready]
  simp only [payloadFits_iff, finish_of_idle main]
  split <;> rfl

/-- R155: BUILD, when it may begin, answers by the length of its operand. -/
theorem exec_build_of_ready {s : State} (ready : Ready s) (payload : List Byte) :
    exec (.build payload) s = .next { s with
      rsp := s.rsp ++ [if payload.length ≤ s.cfg.payloadMax then
          ⟨.ok, .bytes (frameOf s.cfg payload).length (frameOf s.cfg payload)⟩
        else ⟨.badOperand, .nothing⟩] } := by
  have ⟨_, main, _⟩ := ready
  rw [exec, execBuild, issue_ready ready]
  simp only [payloadFits_iff, finish_of_idle main]
  split <;> rfl

/-- Settles O22: the two sides of the bound on the operand. -/
theorem checksumAnswers : Obligations.ChecksumAnswers := by
  unfold Obligations.ChecksumAnswers
  intro s bytes ready
  refine ⟨fun fits => ?value, fun tooLong => ?refused⟩
  case value => rw [exec_crc16_of_ready ready, if_pos fits]
  case refused => rw [exec_crc16_of_ready ready, if_neg (Nat.not_le.2 tooLong)]

/-- Settles O23: the two shapes of `frameOf` with their lengths, and the bound on the operand. -/
theorem buildAnswers : Obligations.BuildAnswers := by
  unfold Obligations.BuildAnswers
  intro s p ready
  refine ⟨fun fits short => ?short, fun fits long => ?extended, fun tooLong => ?refused⟩
  case short => rw [exec_build_of_ready ready, if_pos fits, frameOf_short s.cfg short, shortFrame_length]; rfl
  case extended => rw [exec_build_of_ready ready, if_pos fits, frameOf_ext s.cfg long, extFrame_length]; rfl
  case refused => rw [exec_build_of_ready ready, if_neg (Nat.not_le.2 tooLong)]

/-! ### UNPACK -/

/-- What goes out on `m_rsp` for a verdict (R158, R184). -/
def Verdict.response : Verdict → Response
  | .fail st => ⟨st, .nothing⟩
  | .payload bs => ⟨.ok, .bytes bs.length bs⟩

/-- Finishing with a verdict, with nothing in flight, only returns the result. -/
theorem finishVerdict_of_idle {s : State} (main : s.main = .idle) (v : Verdict) :
    s.finishVerdict v = { s with rsp := s.rsp ++ [v.response] } := by
  cases v <;> exact finish_of_idle main _ _

/-- R158: UNPACK, when it may begin, answers with the validator's verdict. -/
theorem exec_unpack_of_ready {s : State} (ready : Ready s) (f : List Byte) :
    exec (.unpack f) s = .next { s with rsp := s.rsp ++ [(validate s.cfg f).response] } := by
  have ⟨_, main, _⟩ := ready
  rw [exec, execUnpack, issue_ready ready, finishVerdict_of_idle main]

/-- R158, R190: a frame operand fits when it is at most `FRAME_CAP` bytes long. -/
theorem frameFits_iff {p : Config.Params} {f : List Byte} : frameFits p f = true ↔ f.length ≤ p.frameCap :=
  decide_eq_true_iff

/-- R159: the conjuncts of `wellformed`. -/
theorem wellformedFrame_iff {f : List Byte} : wellformedFrame f = true ↔
    5 ≤ f.length ∧ byteAt f 0 = 0x02#8 ∧ f.length = (byteAt f 1).toNat + 5 ∧ byteAt f (f.length - 1) = 0x03#8 := by
  simp [wellformedFrame, Config.tagShort, Config.endMarker, and_assoc]

/-- R158: the first test is on the capacity. -/
theorem validate_of_tooLong {p : Config.Params} {f : List Byte} (tooLong : p.frameCap < f.length) :
    validate p f = .fail .badOperand :=
  if_pos (Bool.eq_false_iff.2 fun fits => Nat.not_le.2 tooLong (frameFits_iff.1 fits))

/-- R158: the second test is on the shape. -/
theorem validate_of_illFormed {p : Config.Params} {f : List Byte} (fits : f.length ≤ p.frameCap)
    (illFormed : ¬ wellformedFrame f = true) : validate p f = .fail .malformed := by
  simp [validate, frameFits_iff.2 fits, illFormed]

/-- R158: the last test compares the recomputed checksum with the embedded one. -/
theorem validate_of_wellformed {p : Config.Params} {f : List Byte} (fits : f.length ≤ p.frameCap)
    (wellformed : wellformedFrame f = true) :
    validate p f = if crcOf p (framePayload f) = frameChecksum f then .payload (framePayload f)
      else .fail .crcMismatch := by
  simp [validate, frameFits_iff.2 fits, wellformed]

/-- R158: the payload region of a frame that holds its `L` payload bytes has `L` bytes. -/
theorem framePayload_length {f : List Byte} (whole : f.length = (byteAt f 1).toNat + 5) :
    (framePayload f).length = (byteAt f 1).toNat := by
  simp [framePayload, whole]

/-- Settles O24: the three tests of the validator in their order; the last clause has every conjunct of `wellformed`. -/
theorem unpackAnswers : Obligations.UnpackAnswers := by
  unfold Obligations.UnpackAnswers
  intro s f ready
  rw [exec_unpack_of_ready ready]
  refine ⟨fun tooLong => ?capacity, fun fits illFormed => ?shape, fun L fits tag len whole mark => ?checksum⟩
  case capacity => rw [validate_of_tooLong tooLong]; rfl
  case shape => rw [validate_of_illFormed fits (mt wellformedFrame_iff.1 illFormed)]; rfl
  case checksum =>
    subst len
    have last : f.length - 1 = (byteAt f 1).toNat + 4 := by omega
    have wellformed : wellformedFrame f = true :=
      wellformedFrame_iff.2 ⟨by omega, tag, whole, by rw [last]; exact mark⟩
    rw [validate_of_wellformed fits wellformed, apply_ite Verdict.response, Verdict.response, Verdict.response,
      framePayload_length whole]
    rfl

/-! ### Frames of the short shape -/

/-- The bytes a short frame has in its places, whatever they are: TypeTag, LengthByte, payload, checksum and EndMarker
(R91). A short frame with one byte changed is of this form. -/
def rawFrame (tag len : Byte) (payload : List Byte) (crc : Half) (mark : Byte) : List Byte :=
  tag :: len :: (payload ++ [hiByte crc, loByte crc, mark])

/-- R91: a short frame has its own TypeTag, LengthByte and EndMarker in those places. -/
theorem shortFrame_eq_rawFrame (payload : List Byte) (crc : Half) :
    shortFrame payload crc =
      rawFrame Config.tagShort (BitVec.ofNat 8 payload.length) payload crc Config.endMarker := rfl

/-- R155: so has BUILD's frame of a payload of at most 255 bytes, with the configured checksum. -/
theorem frameOf_eq_rawFrame {payload : List Byte} (p : Config.Params) (short : payload.length ≤ 255) :
    frameOf p payload =
      rawFrame Config.tagShort (BitVec.ofNat 8 payload.length) payload (crcOf p payload) Config.endMarker := by
  rw [frameOf_short p short, shortFrame_eq_rawFrame]

section
variable {tag len : Byte} {payload : List Byte} {crc : Half} {mark : Byte}

@[simp] theorem rawFrame_length : (rawFrame tag len payload crc mark).length = payload.length + 5 := by
  simp [rawFrame]

@[simp] theorem byteAt_rawFrame_tag : byteAt (rawFrame tag len payload crc mark) 0 = tag := rfl

@[simp] theorem byteAt_rawFrame_len : byteAt (rawFrame tag len payload crc mark) 1 = len := rfl

@[simp] theorem byteAt_rawFrame_mark : byteAt (rawFrame tag len payload crc mark) (payload.length + 4) = mark := by
  simp [byteAt, rawFrame]

/-- R159: such a frame is well-formed when its TypeTag, its LengthByte and its EndMarker are those of its payload. -/
theorem wellformedFrame_rawFrame : wellformedFrame (rawFrame tag len payload crc mark) = true ↔
    tag = Config.tagShort ∧ len.toNat = payload.length ∧ mark = Config.endMarker := by
  rw [wellformedFrame_iff, rawFrame_length, byteAt_rawFrame_tag, byteAt_rawFrame_len,
    show payload.length + 5 - 1 = payload.length + 4 from rfl, byteAt_rawFrame_mark]
  simp [Config.tagShort, Config.endMarker, eq_comm]

/-- R158: where the LengthByte is right, the payload region is the payload. -/
theorem framePayload_rawFrame (whole : len.toNat = payload.length) :
    framePayload (rawFrame tag len payload crc mark) = payload := by
  rw [framePayload, byteAt_rawFrame_len, whole]
  simp [rawFrame]

/-- R158: where the LengthByte is right, the embedded checksum is the one put in. -/
theorem frameChecksum_rawFrame (whole : len.toNat = payload.length) :
    frameChecksum (rawFrame tag len payload crc mark) = crc := by
  have embedded : frameChecksum (rawFrame tag len payload crc mark) = half (hiByte crc) (loByte crc) := by
    simp [frameChecksum, whole, byteAt, rawFrame, Nat.add_comm 2, Nat.add_comm 3]
  rw [embedded, half_hiByte_loByte]

end

/-- R158: of a frame with the header and the EndMarker of its payload, the validator tells whether its checksum is right. -/
theorem validate_rawFrame {p : Config.Params} {payload : List Byte} (short : payload.length ≤ 255)
    (fits : payload.length + 5 ≤ p.frameCap) (crc : Half) :
    validate p (rawFrame Config.tagShort (BitVec.ofNat 8 payload.length) payload crc Config.endMarker) =
      if crcOf p payload = crc then .payload payload else .fail .crcMismatch := by
  have whole : (BitVec.ofNat 8 payload.length).toNat = payload.length := Nat.mod_eq_of_lt (Nat.lt_succ_of_le short)
  rw [validate_of_wellformed (by simpa using fits) (wellformedFrame_rawFrame.2 ⟨rfl, whole, rfl⟩),
    framePayload_rawFrame whole, frameChecksum_rawFrame whole]

/-- R158: a frame whose TypeTag, LengthByte or EndMarker is not that of its payload is malformed, whatever the rest. -/
theorem validate_rawFrame_malformed {p : Config.Params} {tag len : Byte} {payload : List Byte} {crc : Half}
    {mark : Byte} (fits : payload.length + 5 ≤ p.frameCap)
    (wrong : ¬ (tag = Config.tagShort ∧ len.toNat = payload.length ∧ mark = Config.endMarker)) :
    validate p (rawFrame tag len payload crc mark) = .fail .malformed :=
  validate_of_illFormed (by simpa using fits) (mt wellformedFrame_rawFrame.1 wrong)

/-- R5: the frame of a short payload within `PAYLOAD_MAX` is within `FRAME_CAP`. -/
theorem add_five_le_frameCap {p : Config.Params} {n : Nat} (fits : n ≤ p.payloadMax) : n + 5 ≤ p.frameCap := by
  unfold Config.Params.frameCap
  split <;> omega

/-- R160: the validator answers the payload for the frame BUILD makes of it, whatever the checksum function. -/
theorem validate_frameOf {p : Config.Params} {payload : List Byte} (short : payload.length ≤ 255)
    (fits : payload.length ≤ p.payloadMax) : validate p (frameOf p payload) = .payload payload := by
  rw [frameOf_eq_rawFrame p short, validate_rawFrame short (add_five_le_frameCap fits), if_pos rfl]

/-- Returning two results from one state leads to two states. -/
theorem response_of_next_eq {s : State} {r r' : Response}
    (h : (.next { s with rsp := s.rsp ++ [r] } : Result State) = .next { s with rsp := s.rsp ++ [r'] }) : r = r' := by
  simpa using h

/-- Settles O25: BUILD answers OK only within `PAYLOAD_MAX`, and there the validator answers the payload. -/
theorem unpackOfBuildReturnsPayload : Obligations.UnpackOfBuildReturnsPayload := by
  unfold Obligations.UnpackOfBuildReturnsPayload
  intro s p f flen ready short built
  rw [exec_build_of_ready ready] at built
  have answer := response_of_next_eq built
  split at answer
  case isTrue fits =>
    cases answer
    exact ⟨rfl, by rw [exec_unpack_of_ready ready, validate_frameOf short fits]; rfl⟩
  case isFalse => cases answer

/-! ### One changed byte (R161) -/

/-- P2 of R153 for a sequence and the same with one byte set to another value. -/
theorem crcTellsOneByteChange.set_ne {crc : List Byte → Half} (tells : crcTellsOneByteChange crc) {bytes : List Byte}
    {k : Nat} {x : Byte} (inRange : k < bytes.length) (changed : bytes[k] ≠ x) : crc (bytes.set k x) ≠ crc bytes := by
  have apart := tells (bytes.take k) (bytes.drop (k + 1)) x bytes[k] changed.symm
  simpa [List.set_eq_take_append_cons_drop, inRange] using apart

section
variable {tag len : Byte} {payload : List Byte} {crc : Half} {mark x : Byte}

/-! What a byte put in each of its places makes of such a frame. -/

theorem set_rawFrame_tag : (rawFrame tag len payload crc mark).set 0 x = rawFrame x len payload crc mark := rfl

theorem set_rawFrame_len : (rawFrame tag len payload crc mark).set 1 x = rawFrame tag x payload crc mark := rfl

theorem set_rawFrame_payload {k : Nat} (inRange : k < payload.length) :
    (rawFrame tag len payload crc mark).set (2 + k) x = rawFrame tag len (payload.set k x) crc mark := by
  simp [rawFrame, Nat.add_comm 2, List.set_append_left _ _ inRange]

theorem set_rawFrame_high : (rawFrame tag len payload crc mark).set (payload.length + 2) x =
    rawFrame tag len payload (half x (loByte crc)) mark := by
  simp [rawFrame]

theorem set_rawFrame_low : (rawFrame tag len payload crc mark).set (payload.length + 3) x =
    rawFrame tag len payload (half (hiByte crc) x) mark := by
  simp [rawFrame]

theorem set_rawFrame_mark : (rawFrame tag len payload crc mark).set (payload.length + 4) x =
    rawFrame tag len payload crc x := by
  simp [rawFrame]

end

/-- R161: with one byte of the checksum changed, or one of the payload given P2, the checksum does not match. -/
theorem validate_set_crcMismatch {p : Config.Params} {payload : List Byte} {i : Nat} {x : Byte}
    (short : payload.length ≤ 255) (fits : payload.length ≤ p.payloadMax) (changed : (frameOf p payload)[i]? ≠ some x)
    (region : i = payload.length + 2 ∨ i = payload.length + 3 ∨
      (2 ≤ i ∧ i ≤ payload.length + 1 ∧ crcTellsOneByteChange (crcOf p))) :
    validate p ((frameOf p payload).set i x) = .fail .crcMismatch := by
  obtain ⟨-, -, -, body, high, low, -⟩ := shortFrameLayout p payload short
  have capacity := add_five_le_frameCap fits
  rw [frameOf_eq_rawFrame p short]
  obtain rfl | rfl | ⟨above, below, tells⟩ := region
  · have differs : crcOf p payload ≠ half x (loByte (crcOf p payload)) := fun same =>
      changed (high.trans (congrArg some ((congrArg hiByte same).trans (hiByte_half _ _))))
    rw [set_rawFrame_high, validate_rawFrame short capacity, if_neg differs]
  · have differs : crcOf p payload ≠ half (hiByte (crcOf p payload)) x := fun same =>
      changed (low.trans (congrArg some ((congrArg loByte same).trans (loByte_half _ _))))
    rw [set_rawFrame_low, validate_rawFrame short capacity, if_neg differs]
  · obtain ⟨k, rfl⟩ := Nat.exists_eq_add_of_le above
    have inRange : k < payload.length := by omega
    rw [body k inRange, List.getElem?_eq_getElem inRange] at changed
    have differs : crcOf p (payload.set k x) ≠ crcOf p payload :=
      tells.set_ne inRange fun same => changed (congrArg some same)
    have sameLength : (payload.set k x).length = payload.length := List.length_set
    rw [set_rawFrame_payload inRange, ← sameLength,
      validate_rawFrame (by omega) (by omega), if_neg differs]

/-- R161: with the TypeTag, the LengthByte or the EndMarker changed, the frame is malformed. -/
theorem validate_set_malformed {p : Config.Params} {payload : List Byte} {i : Nat} {x : Byte}
    (short : payload.length ≤ 255) (fits : payload.length ≤ p.payloadMax) (changed : (frameOf p payload)[i]? ≠ some x)
    (region : i = 0 ∨ i = 1 ∨ i = payload.length + 4) :
    validate p ((frameOf p payload).set i x) = .fail .malformed := by
  obtain ⟨-, tag, len, -, -, -, mark⟩ := shortFrameLayout p payload short
  have capacity := add_five_le_frameCap fits
  rw [frameOf_eq_rawFrame p short]
  obtain rfl | rfl | rfl := region
  · rw [set_rawFrame_tag]
    refine validate_rawFrame_malformed capacity fun ⟨same, _, _⟩ => changed ?_
    rw [tag, same, Config.tagShort]
  · rw [set_rawFrame_len]
    refine validate_rawFrame_malformed capacity fun ⟨_, same, _⟩ => changed ?_
    rw [len, ← same, BitVec.ofNat_toNat, BitVec.setWidth_eq]
  · rw [set_rawFrame_mark]
    refine validate_rawFrame_malformed capacity fun ⟨_, _, same⟩ => changed ?_
    rw [mark, same, Config.endMarker]

/-- Settles O26: UNPACK answers what the validator says of the changed frame. -/
theorem oneByteMutationDetected : Obligations.OneByteMutationDetected := by
  unfold Obligations.OneByteMutationDetected
  intro s p i x ready short fits _ changed
  rw [exec_unpack_of_ready ready]
  refine ⟨fun region => ?mismatch, fun region => ?malformed⟩
  case mismatch => rw [validate_set_crcMismatch short fits changed region]; rfl
  case malformed => rw [validate_set_malformed short fits changed region]; rfl

end Sys2Proof.Machine
end

/-! ## O31, O37: what the end-tests decide (R174, R179) -/

section
namespace Sys2Proof.Machine

/-- What the completion test of R174 asks. -/
theorem RecvCtx.complete_iff {s : State} {c : RecvCtx} :
    c.complete s = true ↔ c.exp = some c.cnt ∧ c.byteAt s (c.cnt.toNat - 1) = 0x03#8 := by
  simp [RecvCtx.complete, Config.endMarker]

/-- R174: with room in the buffer the completion test decides, whatever the order. -/
theorem RecvCtx.endTest_of_room {s : State} {c : RecvCtx} (room : c.cnt.toNat < 256) :
    c.endTest s = if c.complete s then .finished else .more := by
  have notFull : c.bufferFull = false := decide_eq_false (Nat.not_le.2 room)
  simp [RecvCtx.endTest, notFull]

/-- R174: with the buffer full the order decides, and a RECV never goes on. -/
theorem RecvCtx.endTest_of_full {s : State} {c : RecvCtx} (full : 256 ≤ c.cnt.toNat) :
    c.endTest s = if c.complete s = true ∧ s.cfg.reasmFullWins = false then .finished else .overflow := by
  have full : c.bufferFull = true := decide_eq_true full
  cases order : s.cfg.reasmFullWins <;> simp [RecvCtx.endTest, full, order]

/-- Under the default order the end-tests decide Complete only with room in the buffer (R174). -/
theorem RecvCtx.cnt_of_finished {s : State} {c : RecvCtx} (h : c.endTest s = .finished)
    (fullWins : s.cfg.reasmFullWins = true) : c.cnt.toNat < 256 := by
  by_contra noRoom
  simp [RecvCtx.endTest_of_full (Nat.not_lt.1 noRoom), fullWins] at h

/-- Settles O31: the order matters only where both tests succeed, and at most 256 bytes fill the buffer only as 256. -/
theorem endTestOrderMattersOnce : Obligations.EndTestOrderMattersOnce := by
  unfold Obligations.EndTestOrderMattersOnce
  intro s c le
  by_cases full : 256 ≤ c.cnt.toNat
  · have count : c.cnt.toNat = 256 := Nat.le_antisymm le full
    have complete (p : Config.Params) : c.complete { s with cfg := p } = true ↔
        c.exp = some c.cnt ∧ c.byteAt s 255 = 0x03#8 := by
      rw [RecvCtx.complete_iff, count]; rfl
    simp [RecvCtx.endTest_of_full full, complete, count]
  · have room : c.cnt.toNat < 256 := Nat.not_le.1 full
    have same (p : Config.Params) : c.complete { s with cfg := p } = c.complete s := rfl
    simp [RecvCtx.endTest_of_room room, same, room.ne]

/-- Settles O37: a complete frame's count is `PLEN + 5`, and under the default order below 256. -/
theorem largestFrameRecvCompletes : Obligations.LargestFrameRecvCompletes := by
  unfold Obligations.LargestFrameRecvCompletes
  intro s c e le exp length finished
  obtain rfl : e = c.cnt := Option.some.inj (exp.symm.trans (RecvCtx.exp_of_finished finished))
  split
  case isTrue fullWins => have := RecvCtx.cnt_of_finished finished fullWins; omega
  case isFalse => omega

end Sys2Proof.Machine
end

/-! ## O29, O32: the steps of RECV (R171, R174 to R176) -/

section
namespace Sys2Proof.Machine

/-- With the line side idle, the turn of a RECV in flight is RECV's step. -/
theorem agentStep_of_recv {s : State} {c : RecvCtx} (line : s.line = .idle) (main : s.main = .recv c) :
    agentStep s = progress (recvStep c s) := by
  simp [agentStep, line, main]

theorem progress_next (t : State) : progress (.next t) = .next ⟨t, false⟩ := rfl

theorem recvStep_poll {s : State} {c : RecvCtx} (stage : c.stage = .poll) :
    recvStep c s = .next (recvPoll c s) := by simp [recvStep, stage]

theorem recvStep_take {s : State} {c : RecvCtx} (stage : c.stage = .take) : recvStep c s = recvTake c s := by
  simp [recvStep, stage]

theorem recvStep_yield {s : State} {c : RecvCtx} (stage : c.stage = .yield) :
    recvStep c s = .next (recvYield c s) := by simp [recvStep, stage]

/-- R171: V0 of RECV, when it may begin. -/
theorem exec_recv_of_ready {s : State} (ready : Ready s) :
    exec .recv s = .next { s with main := .recv freshRecv } := by
  rw [exec, execRecv, issue_ready ready]

/-- One round more than `ROUND`, within the four bits of it (R26, R178). -/
theorem RecvCtx.nextRound_toNat {c : RecvCtx} (le : c.round.toNat ≤ 9) :
    (c.round + 1#4).toNat = c.round.toNat + 1 := by
  simp only [BitVec.toNat_add, BitVec.toNat_ofNat]
  omega

/-- RECV.yield ends the call at the tenth round, and else polls again (R171, R178). -/
theorem recvYield_eq {s : State} {c : RecvCtx} (le : c.round.toNat ≤ 9) :
    recvYield c s = if c.round.toNat + 1 = 10 then s.finish .timedOut .nothing
      else { s with main := .recv { c with round := c.round + 1#4, stage := .poll } } := by
  rw [recvYield, RecvCtx.nextRound_toNat le, Config.retryRounds]

/-- Settles O29: V0, the poll and the yield. -/
theorem recvBeginsPollsAndYields : Obligations.RecvBeginsPollsAndYields := by
  unfold Obligations.RecvBeginsPollsAndYields
  refine ⟨fun s ready => ?begins, fun s c line main stage => ?polls, fun s c line main stage le => ?yields⟩
  case begins => exact exec_recv_of_ready ready
  case polls => rw [agentStep_of_recv line main, recvStep_poll stage]; rfl
  case yields => rw [agentStep_of_recv line main, recvStep_yield stage, recvYield_eq le, progress_next]

/-- The state after a take of RECV has read the head and moved the tail on (R171). -/
def State.rxTaken (s : State) : State := s.rxHeadRead.setRxT (nextSlot s.rxt s.cfg.rxCap)

theorem rxTaken_eq (s : State) : s.rxTaken =
    { s.rxHeadRead with rxt := (s.rxt + 1) % s.cfg.rxCap, pastRxT := remember s s.pastRxT s.rxt } := by
  rw [State.rxTaken, State.setRxT, remember_of_cfg (rxHeadRead_cfg s), rxHeadRead_pastRxT, rxHeadRead_rxt, nextSlot]

@[simp] theorem rxTaken_cfg (s : State) : s.rxTaken.cfg = s.cfg := rxHeadRead_cfg s

/-- RECV.take with the tail in range and room in the buffer: the oldest byte is stored and counted (R171). -/
theorem recvTake_of_room {s : State} {c : RecvCtx} (inRange : s.rxt < s.cfg.rxCap) (room : c.cnt.toNat < 256) :
    recvTake c s = recvTaken (c.stored (cellValue s .rxbuf s.rxbuf s.rxt)) s.rxTaken := by
  have tail : s.rxHeadRead.rxt < s.rxHeadRead.cfg.rxCap := by simpa using inRange
  rw [recvTake, takeRx_next tail, andThen_next, writeCell_next (by simpa using room), andThen_next]
  simp [RecvCtx.stored, State.rxTaken, cellValue]

section
variable {s : State} {c : RecvCtx}

/-! What follows a byte counted, by the end-tests (R174). -/

theorem recvTaken_of_more (more : (c.dispatched s).endTest s = .more) :
    recvTaken c s = .next { s with main := .recv { c.dispatched s with stage := .poll } } := by
  rw [RecvCtx.dispatched] at more ⊢
  simp [recvTaken, more]

theorem recvTaken_of_overflow (overflow : (c.dispatched s).endTest s = .overflow) :
    recvTaken c s = .next (s.finish .overflowed .nothing) := by
  rw [RecvCtx.dispatched] at overflow
  simp [recvTaken, overflow]

theorem recvTaken_of_finished (finished : (c.dispatched s).endTest s = .finished) :
    recvTaken c s = recvComplete (c.dispatched s) s := by
  rw [RecvCtx.dispatched] at finished ⊢
  simp [recvTaken, finished]

end

/-- The bytes `RB[lo .. lo + n)` of a context. -/
def RecvCtx.span (s : State) (c : RecvCtx) (lo n : Nat) : List Byte := (List.range n).map fun k => c.byteAt s (lo + k)

/-- Finish Complete, where the frame and its payload lie within `RB` (R176). -/
theorem recvComplete_eq {s : State} {c : RecvCtx} (frame : c.cnt.toNat ≤ 256) (payload : c.plen.toNat ≤ 254) :
    recvComplete c s = .next
      (if validate s.cfg (c.span s 0 c.cnt.toNat) = .fail .crcMismatch then s.finish .crcMismatch .nothing
      else s.finish .ok (.bytes c.plen.toNat (c.span s 2 c.plen.toNat))) := by
  have within : 2 + c.plen.toNat ≤ 256 := by omega
  rw [recvComplete, readSpan_next (by simpa using frame), readSpan_next (by simpa using within), andThen_next,
    andThen_next, apply_ite Host.Outcome.next]
  rfl

/-- Settles O32: the byte taken is stored, and the end-tests after the dispatch say what follows. -/
theorem recvTakeStoresByte : Obligations.RecvTakeStoresByte := by
  unfold Obligations.RecvTakeStoresByte
  rintro s c c1 s1 line main stage inRange room rfl hc1
  have dispatched : c1 = (c.stored (cellValue s .rxbuf s.rxbuf s.rxt)).dispatched s.rxTaken := by
    rw [rxTaken_eq]; exact hc1
  rw [agentStep_of_recv line main, recvStep_take stage, recvTake_of_room inRange room, ← rxTaken_eq]
  subst dispatched
  refine ⟨fun more => ?more, fun overflow => ?overflow, fun finished payload => ?complete⟩
  case more => rw [recvTaken_of_more more, progress_next]
  case overflow => rw [recvTaken_of_overflow overflow, progress_next]
  case complete =>
    have frame : ((c.stored (cellValue s .rxbuf s.rxbuf s.rxt)).dispatched s.rxTaken).cnt.toNat ≤ 256 := by
      rw [RecvCtx.dispatched_cnt, RecvCtx.stored_cnt _ (Nat.le_of_lt_succ room)]
      exact room
    rw [recvTaken_of_finished finished, recvComplete_eq frame payload, progress_next, rxTaken_cfg]
    simp only [RecvCtx.span, Nat.zero_add]

end Sys2Proof.Machine
end

/-! ## O36: a RECV that can no longer reach its length (R177, R180) -/

section
namespace Sys2Proof.Machine

/-- Everything a RECV step can do to the operation in flight and to the results, by what it leaves in flight and what it
adds to them (R171, R174 to R178). -/
inductive RecvMove (c : RecvCtx) : MainCtx → List Response → Prop
  | polled (stage : RecvStage) (poll : c.stage = .poll) (polled : stage ≠ .poll) :
      RecvMove c (.recv { c with stage := stage }) []
  | wentOn (s : State) (b : Byte) (take : c.stage = .take) (more : ((c.stored b).dispatched s).endTest s = .more) :
      RecvMove c (.recv { (c.stored b).dispatched s with stage := .poll }) []
  | overflowed (take : c.stage = .take) : RecvMove c .idle [⟨.overflowed, .nothing⟩]
  | completed (s : State) (b : Byte) (r : Response) (take : c.stage = .take)
      (finished : ((c.stored b).dispatched s).endTest s = .finished) (status : r.status ∈ [Status.ok, .crcMismatch]) :
      RecvMove c .idle [r]
  | nextRound (yield : c.stage = .yield) (notLast : (c.round + 1#4).toNat ≠ 10) :
      RecvMove c (.recv { c with round := c.round + 1#4, stage := .poll }) []
  | timedOut (yield : c.stage = .yield) : RecvMove c .idle [⟨.timedOut, .nothing⟩]

/-- What follows the byte taken is one of the moves of a take. -/
theorem recvTaken_move {c : RecvCtx} {b : Byte} {s t : State} (take : c.stage = .take)
    (h : recvTaken (c.stored b) s = .next t) : ∃ new, t.rsp = s.rsp ++ new ∧ RecvMove c t.main new := by
  obtain ⟨_, rfl, ⟨-, rfl⟩ | ⟨finished, hcomplete⟩ | ⟨more, rfl⟩⟩ := recvTaken_eq_next h
  · exact ⟨_, rfl, .overflowed take⟩
  · obtain rfl | ⟨_, -, rfl⟩ := recvComplete_eq_next hcomplete <;>
      exact ⟨_, rfl, .completed s b _ take finished (by simp)⟩
  · exact ⟨[], (List.append_nil _).symm, .wentOn s b take more⟩

/-- `RecvMove` says everything a RECV step can do to the operation in flight and to the results. -/
theorem recvStep_move {c : RecvCtx} {s t : State} (h : recvStep c s = .next t) :
    ∃ new, t.rsp = s.rsp ++ new ∧ RecvMove c t.main new := by
  cases stage : c.stage with
  | poll =>
    rw [recvStep_poll stage] at h
    cases h
    exact ⟨[], by simp [recvPoll], .polled _ stage (by split <;> decide)⟩
  | take =>
    rw [recvStep_take stage] at h
    obtain ⟨-, -, taken⟩ := recvTake_eq_next h
    obtain ⟨new, rsp, move⟩ := recvTaken_move stage taken
    exact ⟨new, by simpa using rsp, move⟩
  | yield =>
    rw [recvStep_yield stage] at h
    cases h
    unfold recvYield
    split
    · exact ⟨_, rfl, .timedOut stage⟩
    · rename_i notLast; exact ⟨[], (List.append_nil _).symm, .nextRound stage notLast⟩

/-- R177, R180: past the second byte, with no expected length or one that the count has reached. -/
def RecvCtx.Hopeless (c : RecvCtx) : Prop := 2 ≤ c.cnt.toNat ∧ ∀ e, c.exp = some e → e.toNat ≤ c.cnt.toNat

/-- Except at the second byte of a short frame, the dispatch sets nothing (R171, R172). -/
theorem RecvCtx.dispatched_of_not {s : State} {c : RecvCtx}
    (h : ¬ (c.cnt = 2#9 ∧ c.byteAt s 0 = Config.tagShort)) : c.dispatched s = c := by
  obtain ⟨second, short, -⟩ | same := c.dispatched_cases s
  · exact absurd ⟨second, short⟩ h
  · exact same

section
variable {c : RecvCtx} (h : c.Hopeless) (le : c.cnt.toNat ≤ 255)
include h le

/-- A byte more is past the second. -/
theorem RecvCtx.Hopeless.dispatched_stored (b : Byte) (s : State) : (c.stored b).dispatched s = c.stored b := by
  refine RecvCtx.dispatched_of_not fun ⟨second, _⟩ => ?_
  obtain ⟨past, -⟩ := h
  have count := RecvCtx.stored_cnt b le
  have two : (c.stored b).cnt.toNat = 2 := congrArg BitVec.toNat second
  omega

/-- It leaves no length to reach either. -/
theorem RecvCtx.Hopeless.stored (b : Byte) : (c.stored b).Hopeless := by
  obtain ⟨past, reached⟩ := h
  have count := RecvCtx.stored_cnt b le
  exact ⟨by omega, fun e he => by have := reached e he; omega⟩

/-- And it is not complete, since its count is then above the expected one. -/
theorem RecvCtx.Hopeless.not_finished (b : Byte) (s : State) :
    ((c.stored b).dispatched s).endTest s ≠ .finished := by
  rw [h.dispatched_stored le b s]
  intro finished
  have exp : c.exp = some (c.stored b).cnt := RecvCtx.exp_of_finished finished
  have below := h.2 _ exp
  rw [RecvCtx.stored_cnt b le] at below
  omega

/-- Every move of such a RECV leaves such a RECV in flight, or ends it TIMED_OUT or OVERFLOWED. -/
theorem RecvMove.of_hopeless {m : MainCtx} {new : List Response} (move : RecvMove c m new) :
    (∃ c', m = .recv c' ∧ new = [] ∧ c'.Hopeless) ∨
      (m = .idle ∧ (new = [⟨.timedOut, .nothing⟩] ∨ new = [⟨.overflowed, .nothing⟩])) := by
  cases move with
  | polled _ _ _ => exact .inl ⟨_, rfl, rfl, h⟩
  | wentOn s b _ _ => exact .inl ⟨_, rfl, rfl, by rw [h.dispatched_stored le b s]; exact h.stored le b⟩
  | overflowed _ => exact .inr ⟨rfl, .inr rfl⟩
  | completed s b _ _ finished _ => exact absurd finished (h.not_finished le b s)
  | nextRound _ _ => exact .inl ⟨_, rfl, rfl, h⟩
  | timedOut _ => exact .inr ⟨rfl, .inl rfl⟩

end

/-- The context of a RECV in flight in a sound state is sound. -/
theorem BlockInv.recvSound {s : State} {c : RecvCtx} (h : BlockInv s) (main : s.main = .recv c) : RecvSound s c := by
  have sound := h.main
  rwa [MainSound, main] at sound

/-- Settles O36: a count above the expected one stays above it, so no end-test decides Complete. -/
theorem recvWithoutLengthFails : Obligations.RecvWithoutLengthFails := by
  unfold Obligations.RecvWithoutLengthFails
  intro s c u inv line main past reached hu
  obtain ⟨new, rsp, move⟩ := recvStep_move (agentStep_recv line main hu)
  obtain ⟨c', main', rfl, still⟩ | ⟨idle, ended⟩ :=
    RecvMove.of_hopeless ⟨past, reached⟩ (inv.recvSound main).cnt move
  · exact .inl ⟨c', main', by simpa using rsp, still⟩
  · exact .inr ⟨idle, ended.imp (fun h => by rw [rsp, h]) fun h => by rw [rsp, h]⟩

end Sys2Proof.Machine
end

/-! ## What a RECV does that no event interrupts (R103, R171) -/

section
namespace Sys2Proof.Machine

/-- The main side has every step to itself: no line-side operation is in progress and no event lands inside an operation
(notes/assumptions/11.md). -/
structure Undisturbed (s : State) : Prop where
  up : s.up = true
  line : s.line = .idle
  sched : s.sched = []

theorem runs_succ (n : Nat) (s : State) : runs (n + 1) s = andThen (step s) (runs n) := by
  have same : Sys2Proof.core.step s = step s := rfl
  cases h : step s <;> simp only [runs, Host.Core.run, same, h, andThen] <;> rfl

/-- A run goes on from where its first part ended. -/
theorem runs_add {m n : Nat} {s t : State} (h : runs m s = .next t) : runs (m + n) s = runs n t := by
  induction m generalizing s with
  | zero => cases h; rw [Nat.zero_add]
  | succ m ih =>
    rw [runs_succ] at h
    obtain ⟨u, hu, h⟩ := andThen_eq_next.1 h
    rw [Nat.add_right_comm, runs_succ, hu, andThen_next, ih h]

/-- With nothing to interrupt it, a RECV in flight takes every step. -/
theorem step_of_recv {s : State} {c : RecvCtx} (h : Undisturbed s) (main : s.main = .recv c) :
    step s = recvStep c s := by
  have boundary : s.sched.head? ≠ some true := by simp [h.sched]
  have same : { s with sched := s.sched.tail } = s := by rw [h.sched, List.tail_nil, ← h.sched]
  rw [step_of_busy h.up (.inl (by simp [main])), inProgress_of_quiet_boundary boundary, same, agentTurn,
    agentStep_of_recv h.line main]
  cases recvStep c s <;> rfl

/-- What RECV writes leaves it undisturbed (R20). -/
theorem RecvOnly.undisturbed {s t : State} (h : Undisturbed s) (only : RecvOnly s t) : Undisturbed t := by
  rw [only]; exact ⟨h.up, h.line, h.sched⟩

theorem Ready.undisturbed {s : State} (h : Ready s) (sched : s.sched = []) : Undisturbed s :=
  ⟨h.1, h.lineIdle, sched⟩

theorem Undisturbed.with_main {s : State} (h : Undisturbed s) (m : MainCtx) : Undisturbed { s with main := m } :=
  ⟨h.up, h.line, h.sched⟩

end Sys2Proof.Machine
end

/-! ## O35: RECV always finishes (R185) -/

section
namespace Sys2Proof.Machine

/-- The most steps a RECV in flight has left: a poll and a take for each byte the buffer has room for, a poll and a
yield for each round, the poll done where the stage is past it (R185). -/
def RecvCtx.stepsLeft (c : RecvCtx) : Nat :=
  2 * ((256 - c.cnt.toNat) + (10 - c.round.toNat)) - if c.stage = .poll then 0 else 1

/-- Every move of a RECV leaves it fewer steps, or ends it with one of its four results. -/
theorem RecvMove.fewerStepsLeft {s : State} {c : RecvCtx} {m : MainCtx} {new : List Response} (sound : RecvSound s c)
    (move : RecvMove c m new) :
    (∃ c', m = .recv c' ∧ new = [] ∧ c'.stepsLeft < c.stepsLeft) ∨
      (m = .idle ∧ ∃ r : Response, new = [r] ∧ r.status ∈ [Status.ok, .crcMismatch, .timedOut, .overflowed]) := by
  have cnt := sound.cnt
  have round := sound.round
  cases move with
  | polled stage poll polled =>
    refine .inl ⟨_, rfl, rfl, ?_⟩
    simp only [RecvCtx.stepsLeft, poll, polled, if_true, if_false]
    omega
  | wentOn t b take _ =>
    refine .inl ⟨_, rfl, rfl, ?_⟩
    have count := RecvCtx.stored_cnt b cnt
    have same : ((c.stored b).dispatched t).round = c.round := by
      obtain ⟨-, -, hd⟩ | hd := (c.stored b).dispatched_cases t <;> rw [hd] <;> rfl
    simp only [RecvCtx.stepsLeft, RecvCtx.dispatched_cnt, count, same, take, reduceCtorEq, if_true, if_false]
    omega
  | overflowed _ => exact .inr ⟨rfl, _, rfl, by simp⟩
  | completed _ _ r _ _ status => exact .inr ⟨rfl, r, rfl, List.mem_append_left [Status.timedOut, .overflowed] status⟩
  | nextRound yield _ =>
    refine .inl ⟨_, rfl, rfl, ?_⟩
    simp only [RecvCtx.stepsLeft, RecvCtx.nextRound_toNat round, yield, reduceCtorEq, if_true, if_false]
    omega
  | timedOut _ => exact .inr ⟨rfl, _, rfl, by simp⟩

theorem RecvSound.stepsLeft_pos {s : State} {c : RecvCtx} (h : RecvSound s c) : 0 < c.stepsLeft := by
  have cnt := h.cnt
  have round := h.round
  unfold RecvCtx.stepsLeft
  split <;> omega

/-- From a sound state, an undisturbed RECV finishes within the steps it has left. -/
theorem recv_finishes {n : Nat} {s : State} {c : RecvCtx} (inv : BlockInv s) (free : Undisturbed s)
    (main : s.main = .recv c) (bound : c.stepsLeft ≤ n) :
    ∃ k u, k ≤ n ∧ runs k s = .next u ∧ u.main = .idle ∧
      ∃ r : Response, u.rsp = s.rsp ++ [r] ∧ r.status ∈ [Status.ok, .crcMismatch, .timedOut, .overflowed] := by
  induction n generalizing s c with
  | zero => exact absurd (inv.recvSound main).stepsLeft_pos (Nat.not_lt.2 bound)
  | succ n ih =>
    have sound := inv.recvSound main
    obtain ⟨t, ht⟩ := recvStep_next inv.stored sound
    have hstep : step s = .next t := (step_of_recv free main).trans ht
    obtain ⟨new, rsp, move⟩ := recvStep_move ht
    obtain ⟨c', main', rfl, fewer⟩ | ⟨idle, r, rfl, status⟩ := move.fewerStepsLeft sound
    · have inv' : BlockInv t := recvStep_sound inv.stored sound free.line ht
      have free' : Undisturbed t := (recvStep_recvOnly ht).undisturbed free
      obtain ⟨k, u, le, hrun, idle, r, hr, status⟩ := ih inv' free' main' (by omega)
      rw [List.append_nil] at rsp
      exact ⟨k + 1, u, Nat.succ_le_succ le, by rw [runs_succ, hstep, andThen_next, hrun], idle, r, rsp ▸ hr, status⟩
    · exact ⟨1, t, Nat.le_add_left 1 n, by rw [runs_succ, hstep]; rfl, idle, r, rsp, status⟩

/-- Settles O35: V0 leaves 532 steps, and each step leaves fewer. -/
theorem recvAlwaysFinishes : Obligations.RecvAlwaysFinishes := by
  unfold Obligations.RecvAlwaysFinishes
  intro s ready inv sched
  have begun : BlockInv { s with main := .recv freshRecv } :=
    inv.stored.blockInv_of_recv (freshRecv_sound s) ready.lineIdle
  have free := (ready.undisturbed sched).with_main (.recv freshRecv)
  obtain ⟨n, u, le, finished⟩ := recv_finishes (n := 532) begun free rfl (by decide)
  exact ⟨n, _, u, le, exec_recv_of_ready ready, finished⟩

end Sys2Proof.Machine
end

/-! ## O34: RECV on a ring that stays empty (R178) -/

section
namespace Sys2Proof.Machine

/-- A run of two steps ends as its second step does. -/
theorem runs_two {s t : State} {o : Result State} (first : step s = .next t) (second : step t = o) :
    runs 2 s = o := by
  rw [runs_succ, first, andThen_next, runs_succ, second]
  cases o <;> rfl

/-- With a context put in flight, the next step is its own. -/
theorem step_with_recv {s : State} (c : RecvCtx) (h : Undisturbed s) :
    step { s with main := .recv c } = recvStep c { s with main := .recv c } :=
  step_of_recv (h.with_main _) rfl

/-- Under the exact view a poll of an empty ring goes to the yield (R171). -/
theorem recvPoll_of_empty {s : State} (c : RecvCtx) (exactView : s.cfg.xsideView = .exact) (empty : s.rxh = s.rxt) :
    recvPoll c s = { s with main := .recv { c with stage := .yield } } := by
  have seen : s.rxHeadSeen = s.rxt := (seenIndex_exact exactView _ _).trans empty
  have none : occ s.rxt s.rxt s.cfg.rxCap = 0 := by simp [occ]
  simp [recvPoll, rxHeadRead_exact exactView, seen, none]

section
variable {s : State} {c : RecvCtx} (free : Undisturbed s) (main : s.main = .recv c) (poll : c.stage = .poll)
  (exactView : s.cfg.xsideView = .exact) (empty : s.rxh = s.rxt)
include free main poll exactView empty

/-- A round that finds the ring empty is a poll and a yield, and changes nothing but the round (R171, R178). -/
theorem runs_two_of_empty : runs 2 s = .next (recvYield c s) := by
  have polled : step s = .next { s with main := .recv { c with stage := .yield } } := by
    rw [step_of_recv free main, recvStep_poll poll, recvPoll_of_empty c exactView empty]
  exact runs_two polled ((step_with_recv _ free).trans rfl)

/-- The last round of a RECV and the `n` before it, each finding the ring empty. -/
theorem recv_timesOut {n : Nat} (rounds : c.round.toNat + n = 9) :
    runs (2 * (n + 1)) s = .next (s.finish .timedOut .nothing) := by
  induction n generalizing s c with
  | zero =>
    have last : c.round.toNat + 1 = 10 := by omega
    rw [runs_two_of_empty free main poll exactView empty, recvYield_eq (by omega), if_pos last]
  | succ n ih =>
    have notLast : ¬ c.round.toNat + 1 = 10 := by omega
    have round := RecvCtx.nextRound_toNat (c := c) (by omega)
    have first := runs_two_of_empty free main poll exactView empty
    rw [recvYield_eq (by omega), if_neg notLast] at first
    rw [Nat.mul_succ, Nat.add_comm, runs_add first]
    exact ih (free.with_main _) rfl rfl exactView empty (by rw [round]; omega)

end

/-- Settles O34: ten rounds, each a poll of an empty ring and a yield. -/
theorem recvTimesOutOnEmptyRing : Obligations.RecvTimesOutOnEmptyRing := by
  unfold Obligations.RecvTimesOutOnEmptyRing
  intro s ready exactView sched empty
  refine ⟨_, exec_recv_of_ready ready, ?_⟩
  have free := (ready.undisturbed sched).with_main (.recv freshRecv)
  have ends := recv_timesOut (n := 9) free rfl rfl exactView empty rfl
  exact ends.trans (congrArg _ (finish_of_idle ready.2.1 .timedOut .nothing))

end Sys2Proof.Machine
end

/-! ## O33: RECV on a ring that holds a whole frame (R176, R181, R183) -/

section
namespace Sys2Proof.Machine

/-- A ring that holds a byte is not empty, and its oldest byte and the bytes behind it are what they read as (R23). -/
theorem RingView.InRange.bytes_cons {r : RingView} (h : r.InRange) {b : Byte} {bs : List Byte}
    (bytes : r.bytes = b :: bs) : r.head ≠ r.tail ∧ r.cell r.tail = b ∧ r.pop.bytes = bs := by
  have nonempty : r.head ≠ r.tail := by
    intro empty
    have none : occ r.head r.tail r.cap = 0 := (occ_eq_zero h.head h.tail).2 empty
    simp [RingView.bytes, none] at bytes
  rw [h.bytes_pop nonempty] at bytes
  obtain ⟨cell, behind⟩ := List.cons.inj bytes
  exact ⟨nonempty, cell, behind⟩

/-- Under the exact view a poll of a ring that is not empty goes to the take (R171). -/
theorem recvPoll_of_nonempty {s : State} (c : RecvCtx) (exactView : s.cfg.xsideView = .exact)
    (inRange : s.rxRing.InRange) (nonempty : s.rxh ≠ s.rxt) :
    recvPoll c s = { s with main := .recv { c with stage := .take } } := by
  have seen : s.rxHeadSeen = s.rxh := seenIndex_exact exactView _ _
  have some : 0 < occ s.rxh s.rxt s.cfg.rxCap :=
    Nat.pos_of_ne_zero (mt (occ_eq_zero inRange.head inRange.tail).1 nonempty)
  simp [recvPoll, rxHeadRead_exact exactView, seen, some]

/-- Under the exact view a take only moves the tail on. -/
theorem rxTaken_exact {s : State} (exactView : s.cfg.xsideView = .exact) :
    s.rxTaken = { s with rxt := nextSlot s.rxt s.cfg.rxCap } := by
  simp [State.rxTaken, State.setRxT, rxHeadRead_exact exactView, remember, exactView]

/-- Under the exact view a take removes the byte at the tail and moves the tail on. -/
theorem recvTake_of_exact {s : State} {c : RecvCtx} (exactView : s.cfg.xsideView = .exact)
    (inRange : s.rxt < s.cfg.rxCap) (room : c.cnt.toNat < 256) :
    recvTake c s =
      recvTaken (c.stored (s.rxRing.cell s.rxt)) { s with rxt := nextSlot s.rxt s.cfg.rxCap } := by
  rw [recvTake_of_room inRange room, rxTaken_exact exactView]
  rfl

/-- The dispatch neither reads nor writes the stage, nor does it read what is in flight. -/
theorem dispatched_at (c : RecvCtx) (s : State) (stage : RecvStage) (m : MainCtx) :
    { c with stage := stage }.dispatched { s with main := m } = { c.dispatched s with stage := stage } := by
  by_cases dispatches : c.cnt = 2#9 ∧ c.byteAt s 0 = Config.tagShort
  · obtain ⟨second, short⟩ := dispatches
    have hd : c.dispatched s = { c with exp := some ((c.byteAt s 1).setWidth 9 + 5#9), plen := c.byteAt s 1 } :=
      (if_pos second).trans (if_pos short)
    rw [hd]
    exact (if_pos second).trans (if_pos short)
  · rw [RecvCtx.dispatched_of_not dispatches]
    exact RecvCtx.dispatched_of_not dispatches

/-- Nor does what follows the byte taken. -/
theorem recvTaken_at (c : RecvCtx) (s : State) (stage : RecvStage) (m : MainCtx) :
    recvTaken { c with stage := stage } { s with main := m } = recvTaken c s := by
  have same := dispatched_at c s stage m
  unfold RecvCtx.dispatched at same
  unfold recvTaken
  rw [same]
  rfl

/-- A poll and a take of a ring that is not empty, under the exact view (R171). -/
theorem runs_two_of_nonempty {s : State} {c : RecvCtx} (free : Undisturbed s) (main : s.main = .recv c)
    (poll : c.stage = .poll) (exactView : s.cfg.xsideView = .exact) (inRange : s.rxRing.InRange)
    (nonempty : s.rxh ≠ s.rxt) (room : c.cnt.toNat < 256) :
    runs 2 s = recvTaken (c.stored (s.rxRing.cell s.rxt)) { s with rxt := nextSlot s.rxt s.cfg.rxCap } := by
  have polled : step s = .next { s with main := .recv { c with stage := .take } } := by
    rw [step_of_recv free main, recvStep_poll poll, recvPoll_of_nonempty c exactView inRange nonempty]
  have took := recvTake_of_exact (s := { s with main := .recv { c with stage := .take } })
    (c := { c with stage := .take }) exactView inRange.tail room
  exact (runs_two polled ((step_with_recv _ free).trans took)).trans
    (recvTaken_at (c.stored (s.rxRing.cell s.rxt)) { s with rxt := nextSlot s.rxt s.cfg.rxCap } .take _)

/-- A span of `RB` holds what the same span of a sequence holds of which the bytes are there. -/
theorem span_of_holds {s : State} {c : RecvCtx} {f : List Byte} {m lo n : Nat} (held : Mem.holds c.rb m f)
    (within : lo + n ≤ m) (le : m ≤ f.length) : c.span s lo n = (f.drop lo).take n := by
  apply List.ext_getElem
  · simp [RecvCtx.span]; omega
  · intro k hk _
    have lt : k < n := by simpa [RecvCtx.span] using hk
    have inFrame : lo + k < f.length := by omega
    have read : c.byteAt s (lo + k) = byteAt f (lo + k) := cellValue_of_read (held (lo + k) (by omega))
    simp [RecvCtx.span, read, byteAt, inFrame]

/-- The context of a RECV that has counted the first `CNT` bytes of a short frame (R171, R172): these bytes are in `RB`,
and from the second on `EXP` and `PLEN` are those of the frame. -/
structure HoldsFrame (c : RecvCtx) (f : List Byte) : Prop where
  held : Mem.holds c.rb c.cnt.toNat f
  early : c.cnt.toNat < 2 → c.exp = none
  header : 2 ≤ c.cnt.toNat → (∃ e, c.exp = some e ∧ e.toNat = f.length) ∧ c.plen = byteAt f 1

theorem freshRecv_holdsFrame (f : List Byte) : HoldsFrame freshRecv f where
  held := fun _ hk => absurd hk (Nat.not_lt_zero _)
  early := fun _ => rfl
  header := fun two => absurd two (by decide)

/-- At the second byte of a short frame the dispatch sets `EXP` and `PLEN` from the frame's LengthByte (R172). -/
theorem dispatched_of_second {s : State} {c : RecvCtx} {f : List Byte} (held : Mem.holds c.rb c.cnt.toNat f)
    (second : c.cnt = 2#9) (tag : byteAt f 0 = Config.tagShort) :
    c.dispatched s = { c with exp := some ((byteAt f 1).setWidth 9 + 5#9), plen := byteAt f 1 } := by
  have two : c.cnt.toNat = 2 := by rw [second]; rfl
  have read (k : Nat) (hk : k < 2) : c.byteAt s k = byteAt f k := cellValue_of_read (held k (by omega))
  rw [RecvCtx.dispatched, if_pos second, RecvCtx.dispatch, read 0 (by omega), if_pos tag, read 1 (by omega)]

/-- The dispatch makes of a context with the bytes of a frame one that holds the frame. -/
theorem HoldsFrame.dispatched {s : State} {c : RecvCtx} {f : List Byte} (wellformed : wellformedFrame f = true)
    (held : Mem.holds c.rb c.cnt.toNat f) (early : c.cnt.toNat < 2 → c.exp = none)
    (header : 2 < c.cnt.toNat → (∃ e, c.exp = some e ∧ e.toNat = f.length) ∧ c.plen = byteAt f 1) :
    HoldsFrame (c.dispatched s) f := by
  obtain ⟨-, tag, length, -⟩ := wellformedFrame_iff.1 wellformed
  by_cases second : c.cnt = 2#9
  · have two : c.cnt.toNat = 2 := by rw [second]; rfl
    rw [dispatched_of_second held second tag]
    exact ⟨held, fun lt => absurd lt (Nat.not_lt.2 two.ge),
      fun _ => ⟨⟨_, rfl, (expectedLength_toNat _).trans length.symm⟩, rfl⟩⟩
  · have other : 2 ≠ c.cnt.toNat := fun two => second (BitVec.eq_of_toNat_eq two.symm)
    rw [RecvCtx.dispatched_of_not (mt And.left second)]
    exact ⟨held, early, fun le => header (lt_of_le_of_ne le other)⟩

section
variable {s : State} {c : RecvCtx} {f : List Byte} (h : HoldsFrame c f)
include h

/-- The next byte of the frame, stored and dispatched. -/
theorem HoldsFrame.taken (wellformed : wellformedFrame f = true) (room : c.cnt.toNat < 256) :
    HoldsFrame ((c.stored (byteAt f c.cnt.toNat)).dispatched s) f := by
  have count := RecvCtx.stored_cnt (byteAt f c.cnt.toNat) (Nat.le_of_lt_succ room)
  refine .dispatched wellformed ?held (fun lt => h.early (by omega)) fun lt => h.header (by omega)
  rw [count]
  exact Mem.holds_write h.held

/-- `EXP`, where it is set, is the length of the frame. -/
theorem HoldsFrame.exp_toNat {e : BitVec 9} (exp : c.exp = some e) : e.toNat = f.length := by
  have two : 2 ≤ c.cnt.toNat := by
    by_contra early
    rw [h.early (Nat.not_le.1 early)] at exp
    cases exp
  obtain ⟨⟨e', exp', length⟩, -⟩ := h.header two
  rw [← length, Option.some.inj (exp.symm.trans exp')]

/-- Before its last byte the frame is not complete, and RECV goes on (R174). -/
theorem HoldsFrame.more (room : c.cnt.toNat < 256) (lt : c.cnt.toNat < f.length) : c.endTest s = .more := by
  have incomplete : ¬ c.complete s = true := by
    rw [RecvCtx.complete_iff]
    exact fun ⟨exp, _⟩ => lt.ne (h.exp_toNat exp)
  rw [RecvCtx.endTest_of_room room, if_neg incomplete]

/-- With its last byte the frame is complete (R174), where the order of the end-tests lets it be (R179). -/
theorem HoldsFrame.finished (wellformed : wellformedFrame f = true)
    (fits : f.length ≤ if s.cfg.reasmFullWins then 255 else 256) (whole : c.cnt.toNat = f.length) :
    c.endTest s = .finished := by
  obtain ⟨five, -, -, mark⟩ := wellformedFrame_iff.1 wellformed
  obtain ⟨⟨e, he, length⟩, -⟩ := h.header (by omega)
  have exp : c.exp = some c.cnt := by rw [he, BitVec.eq_of_toNat_eq (length.trans whole.symm)]
  have last : c.byteAt s (c.cnt.toNat - 1) = byteAt f (c.cnt.toNat - 1) := cellValue_of_read (h.held _ (by omega))
  have complete : c.complete s = true := RecvCtx.complete_iff.2 ⟨exp, by rw [last, whole, mark]⟩
  by_cases room : c.cnt.toNat < 256
  · rw [RecvCtx.endTest_of_room room, if_pos complete]
  · split at fits
    case isTrue => omega
    case isFalse order =>
      rw [RecvCtx.endTest_of_full (Nat.not_lt.1 room), if_pos ⟨complete, Bool.eq_false_iff.2 order⟩]

/-- A whole frame whose checksum matches is answered with its payload (R176). -/
theorem HoldsFrame.answers (wellformed : wellformedFrame f = true) (fits : f.length ≤ 256)
    (whole : c.cnt.toNat = f.length) (valid : validate s.cfg f = .payload (framePayload f)) :
    recvComplete c s = .next (s.finish .ok (.bytes (framePayload f).length (framePayload f))) := by
  obtain ⟨five, -, length, -⟩ := wellformedFrame_iff.1 wellformed
  obtain ⟨-, plen⟩ := h.header (by omega)
  have held : Mem.holds c.rb f.length f := whole ▸ h.held
  have frame : c.span s 0 c.cnt.toNat = f := by
    rw [span_of_holds held (by omega) le_rfl, whole, List.drop_zero, List.take_length]
  have payload : c.span s 2 c.plen.toNat = framePayload f := by
    rw [span_of_holds held (by rw [plen]; omega) le_rfl, plen, framePayload]
  have notMismatch : ¬ (Verdict.payload (framePayload f) = .fail .crcMismatch) := nofun
  rw [recvComplete_eq (by omega) (by rw [plen]; omega), frame, payload, valid, if_neg notMismatch, plen,
    framePayload_length length]

end

/-- A poll and a take of a ring whose oldest byte is `b`, and what stays buffered (R171, R181). -/
theorem runs_two_of_oldest {s : State} {c : RecvCtx} {b : Byte} {bs : List Byte} (free : Undisturbed s)
    (main : s.main = .recv c) (poll : c.stage = .poll) (exactView : s.cfg.xsideView = .exact)
    (inRange : s.rxRing.InRange) (room : c.cnt.toNat < 256) (buffered : bufferedRx s = b :: bs) :
    ∃ t, t = { s with rxt := t.rxt } ∧ t.rxRing.InRange ∧ bufferedRx t = bs ∧ runs 2 s = recvTaken (c.stored b) t := by
  obtain ⟨nonempty, rfl, behind⟩ := inRange.bytes_cons buffered
  exact ⟨{ s with rxt := nextSlot s.rxt s.cfg.rxCap }, rfl, inRange.pop, behind,
    runs_two_of_nonempty free main poll exactView inRange nonempty room⟩

/-- A RECV that began from `s` under the exact view, has taken the first `CNT` bytes of a frame and stands at a poll:
what is left of the frame is oldest in the RX ring, with `rest` behind it. -/
structure Collecting (s : State) (f rest : List Byte) (c : RecvCtx) (t : State) : Prop where
  state : t = { s with rxt := t.rxt, main := .recv c }
  poll : c.stage = .poll
  inRange : t.rxRing.InRange
  frame : HoldsFrame c f
  buffered : bufferedRx t = f.drop c.cnt.toNat ++ rest

/-- The bytes of the frame still to come are the next one and those behind it. -/
theorem Collecting.oldest {s t : State} {f rest : List Byte} {c : RecvCtx} (h : Collecting s f rest c t)
    (lt : c.cnt.toNat < f.length) :
    bufferedRx t = byteAt f c.cnt.toNat :: (f.drop (c.cnt.toNat + 1) ++ rest) := by
  have next : byteAt f c.cnt.toNat = f[c.cnt.toNat] := List.getD_eq_getElem _ _ lt
  rw [h.buffered, List.drop_eq_getElem_cons lt, next, List.cons_append]

section
variable {s t : State} {f rest : List Byte} {c : RecvCtx} (free : Undisturbed s)
  (exactView : s.cfg.xsideView = .exact) (wellformed : wellformedFrame f = true)
include free exactView wellformed

/-- The next byte of the frame is taken, and the end-tests say how RECV goes on. -/
theorem Collecting.taken (h : Collecting s f rest c t) (room : c.cnt.toNat < 256) (lt : c.cnt.toNat < f.length) :
    ∃ c' t', Collecting s f rest c' t' ∧ c'.cnt.toNat = c.cnt.toNat + 1 ∧
      (c'.endTest t' = .more → runs 2 t = .next t') ∧
      (c'.endTest t' = .finished → runs 2 t = recvComplete c' t') := by
  have oldest := h.oldest lt
  obtain ⟨state, poll, inRange, frame, -⟩ := h
  have freeT : Undisturbed t := by rw [state]; exact ⟨free.up, free.line, free.sched⟩
  obtain ⟨u, moved, inRange', behind, round⟩ :=
    runs_two_of_oldest freeT (by rw [state]) poll (by rw [state]; exact exactView) inRange room oldest
  have next := frame.taken (s := u) wellformed room
  have count : ((c.stored (byteAt f c.cnt.toNat)).dispatched u).cnt.toNat = c.cnt.toNat + 1 := by
    rw [RecvCtx.dispatched_cnt, RecvCtx.stored_cnt _ (Nat.le_of_lt_succ room)]
  refine ⟨{ (c.stored (byteAt f c.cnt.toNat)).dispatched u with stage := .poll }, { u with main := .recv _ },
    ⟨?state, rfl, inRange', ⟨next.held, next.early, next.header⟩, ?buffered⟩, count,
    fun more => round.trans (recvTaken_of_more more), fun finished => round.trans (recvTaken_of_finished finished)⟩
  case state => rw [moved, state]
  case buffered => simp only [count]; exact behind

/-- The `n` bytes before the last one are taken, and the last one completes the frame. -/
theorem Collecting.completes {n : Nat} (main : s.main = .idle)
    (fits : f.length ≤ if s.cfg.reasmFullWins then 255 else 256)
    (valid : validate s.cfg f = .payload (framePayload f)) (h : Collecting s f rest c t)
    (left : c.cnt.toNat + n + 1 = f.length) :
    ∃ u, runs (2 * (n + 1)) t = .next u ∧
      u = { s with rxt := u.rxt
                   rsp := s.rsp ++ [⟨.ok, .bytes (framePayload f).length (framePayload f)⟩] } ∧
      bufferedRx u = rest := by
  have within : f.length ≤ 256 := by split at fits <;> omega
  induction n generalizing c t with
  | zero =>
    obtain ⟨c', t', h', count, -, finished⟩ := h.taken free exactView wellformed (by omega) (by omega)
    have cfg : t'.cfg = s.cfg := by rw [h'.state]
    have whole : c'.cnt.toNat = f.length := by omega
    have buffered := h'.buffered
    rw [whole, List.drop_length, List.nil_append] at buffered
    refine ⟨_, (finished ?_).trans (h'.frame.answers wellformed within whole (cfg ▸ valid)), ?_, buffered⟩
    · exact h'.frame.finished wellformed (cfg ▸ fits) whole
    · refine (congrArg (State.finish · _ _) h'.state).trans ?_
      exact finish_of_idle (s := { s with rxt := t'.rxt }) main _ _
  | succ n ih =>
    obtain ⟨c', t', h', count, more, -⟩ := h.taken free exactView wellformed (by omega) (by omega)
    have onward : runs 2 t = .next t' := more (h'.frame.more (by omega) (by omega))
    rw [Nat.mul_succ, Nat.add_comm, runs_add onward]
    exact ih h' (by omega)

end

/-- R91: the LengthByte of a payload of at most 255 bytes is its length. -/
theorem lengthByte_toNat {n : Nat} (short : n ≤ 255) : (BitVec.ofNat 8 n).toNat = n :=
  Nat.mod_eq_of_lt (Nat.lt_succ_of_le short)

/-- R155, R159: BUILD's frame of a payload of at most 255 bytes is well-formed. -/
theorem wellformedFrame_frameOf {payload : List Byte} (p : Config.Params) (short : payload.length ≤ 255) :
    wellformedFrame (frameOf p payload) = true := by
  rw [frameOf_eq_rawFrame p short]
  exact wellformedFrame_rawFrame.2 ⟨rfl, lengthByte_toNat short, rfl⟩

/-- R155, R158: and its payload region is the payload. -/
theorem framePayload_frameOf {payload : List Byte} (p : Config.Params) (short : payload.length ≤ 255) :
    framePayload (frameOf p payload) = payload := by
  rw [frameOf_eq_rawFrame p short, framePayload_rawFrame (lengthByte_toNat short)]

/-- Settles O33: BUILD's frame is taken byte by byte, and the validator answers its payload. -/
theorem recvReturnsBufferedFrame : Obligations.RecvReturnsBufferedFrame := by
  unfold Obligations.RecvReturnsBufferedFrame
  intro s p rest ready inv exactView sched fits small buffered
  have short : p.length ≤ 255 := by split at small <;> omega
  have length : (frameOf s.cfg p).length = p.length + 5 := by rw [frameOf_eq_rawFrame s.cfg short, rawFrame_length]
  have capacity : (frameOf s.cfg p).length ≤ if s.cfg.reasmFullWins then 255 else 256 := by
    rw [length]; split at small <;> simp_all
  have payload := framePayload_frameOf s.cfg short
  have valid : validate s.cfg (frameOf s.cfg p) = .payload (framePayload (frameOf s.cfg p)) := by
    rw [payload, validate_frameOf short fits]
  have begun : Collecting s (frameOf s.cfg p) rest freshRecv { s with main := .recv freshRecv } :=
    ⟨rfl, rfl, inv.stored.rings.2, freshRecv_holdsFrame _, buffered⟩
  obtain ⟨u, hrun, result, behind⟩ := begun.completes (n := p.length + 4) (ready.undisturbed sched) exactView
    (wellformedFrame_frameOf s.cfg short) ready.2.1 capacity valid (by rw [length]; simp [freshRecv])
  rw [payload] at result
  exact ⟨_, u, exec_recv_of_ready ready, hrun, result, behind⟩

end Sys2Proof.Machine
end

/-! ## What the agent in progress does that no event interrupts (R103) -/

section
namespace Sys2Proof.Machine

/-- With the schedule used up, a step with an operation in progress is the agent's turn (notes/assumptions/11.md). -/
theorem step_of_unscheduled {s : State} (up : s.up = true) (busy : s.main ≠ .idle ∨ s.line ≠ .idle)
    (sched : s.sched = []) : step s = agentTurn s := by
  rw [step_of_busy up busy]
  simp [inProgress, sched]

/-- Such a step ends where the agent's step makes progress to. -/
theorem step_of_progress {s t : State} (up : s.up = true) (busy : s.main ≠ .idle ∨ s.line ≠ .idle)
    (sched : s.sched = []) (h : agentStep s = .next ⟨t, false⟩) : step s = .next t :=
  (step_of_unscheduled up busy sched).trans (agentTurn_of_progress h rfl)

/-- The turn of an agent that always makes progress ends as its step does. -/
theorem agentTurn_of_agentStep_progress {s : State} {o : Result State} (h : agentStep s = progress o) :
    agentTurn s = o := by
  rw [agentTurn, h]
  cases o <;> rfl

/-- A run of one step more ends where the rest of it does. -/
theorem runs_step {n : Nat} {s t : State} {o : Result State} (first : step s = .next t) (rest : runs n t = o) :
    runs (n + 1) s = o := by
  rw [runs_succ, first, andThen_next, rest]

/-- A state that a step leaves as it is stays as it is for ever. -/
theorem runs_of_step_self {s : State} (h : step s = .next s) (n : Nat) : runs n s = .next s := by
  induction n with
  | zero => rfl
  | succ n ih => exact runs_step h ih

end Sys2Proof.Machine
end

/-! ## O38, O39: STORE from its first step to its end (R190 to R192) -/

section
namespace Sys2Proof.Machine

/-- R190, R191: STORE, when it may begin, clears validity and begins the copy, or refuses a frame that does not fit. -/
theorem exec_store_of_ready {s : State} (ready : Ready s) (f : List Byte) :
    exec (.store f) s = .next (if f.length ≤ s.cfg.frameCap then
        { s with kvalid := false, main := .store f (storeStage f 0) }
      else { s with rsp := s.rsp ++ [⟨.badOperand, .nothing⟩] }) := by
  have ⟨_, main, _⟩ := ready
  rw [exec, execStore, issue_ready ready]
  simp only [frameFits_iff, finish_of_idle main]
  split <;> rfl

/-- Settles O38: the two sides of the bound on the frame. -/
theorem storeBeginsOrRefuses : Obligations.StoreBeginsOrRefuses := by
  unfold Obligations.StoreBeginsOrRefuses
  intro s f ready
  rw [exec_store_of_ready ready]
  refine ⟨fun tooLong => ?refuses, fun fits => ?begins⟩
  case refuses => rw [if_neg (Nat.not_le.2 tooLong)]
  case begins => rw [if_pos fits, storeStage]

/-- With the line side idle, the turn of a STORE in flight is STORE's step. -/
theorem agentStep_of_store {s : State} {f : List Byte} {stage : StoreStage} (line : s.line = .idle)
    (main : s.main = .store f stage) : agentStep s = progress (storeStep f stage s) := by
  simp [agentStep, line, main]

/-- With nothing to interrupt it, a STORE in flight takes every step. -/
theorem step_of_store {s : State} {f : List Byte} {stage : StoreStage} (h : Undisturbed s)
    (main : s.main = .store f stage) : step s = storeStep f stage s :=
  (step_of_unscheduled h.up (.inl (by simp [main])) h.sched).trans
    (agentTurn_of_agentStep_progress (agentStep_of_store h.line main))

/-- S2: inside the cache the byte at the cursor is copied (R191). -/
theorem storeStep_s2 {s : State} {f : List Byte} {si : Nat} (inRange : si < s.cfg.frameCap) :
    storeStep f (.s2 si) s = .next
      { s with kc := Mem.write s.kc si (byteAt f si), main := .store f (storeStage f (si + 1)) } := by
  rw [storeStep, writeCell_next (by simpa using inRange), andThen_next]

/-- A STORE of `f` that began from `s` and has copied the first `si` bytes: the cache is not valid, and the cells behind
the frame are as they were (R191). -/
structure Copying (s : State) (f : List Byte) (si : Nat) (t : State) : Prop where
  state : t = { s with kc := t.kc, kvalid := false, main := .store f (storeStage f si) }
  copied : Mem.holds t.kc si f
  behind : ∀ k, f.length ≤ k → Mem.read? t.kc k = Mem.read? s.kc k

section
variable {s t : State} {f : List Byte} {si : Nat}

/-- S1 has copied nothing. -/
theorem Copying.begun (s : State) (f : List Byte) :
    Copying s f 0 { s with kvalid := false, main := .store f (storeStage f 0) } :=
  ⟨rfl, fun k hk => absurd hk (Nat.not_lt_zero k), fun _ _ => rfl⟩

theorem Copying.undisturbed (h : Copying s f si t) (free : Undisturbed s) : Undisturbed t := by
  rw [h.state]; exact ⟨free.up, free.line, free.sched⟩

theorem Copying.main (h : Copying s f si t) : t.main = .store f (storeStage f si) := by rw [h.state]

/-- One step of S2 copies one byte more. -/
theorem Copying.next (h : Copying s f si t) (free : Undisturbed s) (fits : f.length ≤ s.cfg.frameCap)
    (lt : si < f.length) : ∃ t', step t = .next t' ∧ Copying s f (si + 1) t' := by
  have stage : storeStage f si = .s2 si := if_pos lt
  have inRange : si < t.cfg.frameCap := by rw [h.state]; exact lt.trans_le fits
  have copies := step_of_store (h.undisturbed free) h.main
  rw [stage, storeStep_s2 inRange] at copies
  refine ⟨_, copies, ?state, Mem.holds_write h.copied, fun k hk => ?behind⟩
  case state => rw [h.state]
  case behind => exact (Mem.read?_write_other _ _ (by omega)).trans (h.behind k hk)

/-- The `n` bytes left are copied in `n` steps. -/
theorem Copying.rest {n : Nat} (h : Copying s f si t) (free : Undisturbed s) (fits : f.length ≤ s.cfg.frameCap)
    (left : si + n = f.length) : ∃ t', runs n t = .next t' ∧ Copying s f f.length t' := by
  induction n generalizing si t with
  | zero => exact ⟨t, rfl, left ▸ h⟩
  | succ n ih =>
    obtain ⟨t', first, h'⟩ := h.next free fits (by omega)
    obtain ⟨u, others, hu⟩ := ih h' (by omega)
    exact ⟨u, runs_step first others, hu⟩

/-- With the whole frame copied, S3 and S4 record the length and set validity (R191, R192). -/
theorem Copying.ends (h : Copying s f f.length t) (free : Undisturbed s) :
    runs 2 t = .next ({ t with klen := f.length, kvalid := true }.finish .ok .nothing) := by
  have freeT := h.undisturbed free
  have last : storeStage f f.length = .s3 := if_neg (Nat.lt_irrefl _)
  have recorded : step t = .next { t with klen := f.length, main := .store f .s4 } := by
    rw [step_of_store freeT h.main, last, storeStep]
  have freeS4 : Undisturbed { t with klen := f.length, main := .store f .s4 } := ⟨freeT.up, freeT.line, freeT.sched⟩
  exact runs_two recorded (step_of_store freeS4 rfl)

end

/-- Settles O39: S1, a step of S2 for each byte, S3 and S4. -/
theorem storeFillsCache : Obligations.StoreFillsCache := by
  unfold Obligations.StoreFillsCache
  intro s f ready sched fits
  have free := ready.undisturbed sched
  obtain ⟨t, copies, whole⟩ := (Copying.begun s f).rest free fits (Nat.zero_add _)
  refine ⟨_, _, by rw [exec_store_of_ready ready, if_pos fits], (runs_add copies).trans (whole.ends free), ?state,
    fun k hk => ?frame, whole.behind⟩
  case state =>
    have ⟨_, main, _⟩ := ready
    rw [whole.state, State.finish, ← main]
  case frame =>
    have byte : byteAt f k = f[k] := List.getD_eq_getElem _ _ hk
    exact (whole.copied k hk).trans (by rw [byte, List.getElem?_eq_getElem hk])

end Sys2Proof.Machine
end

/-! ## O40, O41: what TICK does (R194, R195, R198, R200) -/

section
namespace Sys2Proof.Machine

/-- R194, R198: K1 of RESEND, when it may begin. -/
theorem exec_tick_of_ready {s : State} (ready : LineReady s) :
    exec .tick s = .next (if s.kvalid = true then { s with line := resendAt s.klen 0 } else s) := by
  rw [exec, execTick, serve_ready ready]
  split <;> rfl

/-- R198: with the cache not valid, TICK changes nothing. -/
theorem exec_tick_of_invalid {s : State} (ready : LineReady s) (invalid : s.kvalid = false) :
    exec .tick s = .next s := by
  simp [exec_tick_of_ready ready, invalid]

/-- R195: with the cache valid, RESEND stands before its first byte. -/
theorem exec_tick_of_valid {s : State} (ready : LineReady s) (valid : s.kvalid = true) :
    exec .tick s = .next { s with line := resendAt s.klen 0 } := by
  rw [exec_tick_of_ready ready, if_pos valid]

/-- Settles O40: the cache not valid, a frame of at least one byte, and one of none. -/
theorem tickRunsResendCheck : Obligations.TickRunsResendCheck := by
  unfold Obligations.TickRunsResendCheck
  intro s ready
  refine ⟨fun invalid => ?nothing, fun valid nonempty => ?begins, fun valid empty => ?finishes⟩
  case nothing => exact exec_tick_of_invalid ready invalid
  case begins => rw [exec_tick_of_valid ready valid, resendAt, if_pos nonempty]
  case finishes =>
    have finished : resendAt s.klen 0 = s.line := (if_neg (by simp [empty])).trans ready.2.symm
    rw [exec_tick_of_valid ready valid, finished]

/-- R191: while a STORE is in flight the cache is not valid. -/
theorem BlockInv.invalid_of_store {s : State} {f : List Byte} {stage : StoreStage} (h : BlockInv s)
    (main : s.main = .store f stage) : s.kvalid = false := by
  have sound := h.main
  rw [MainSound, main] at sound
  obtain ⟨-, invalid, -⟩ := sound
  exact invalid

/-- Settles O41: the STORE has cleared the validity that TICK checks. -/
theorem tickDuringStoreDoesNothing : Obligations.TickDuringStoreDoesNothing := by
  unfold Obligations.TickDuringStoreDoesNothing
  intro s f stage inv up line main
  exact exec_tick_of_invalid ⟨up, line⟩ (inv.invalid_of_store main)

end Sys2Proof.Machine
end

/-! ## O43, O44: a RESEND held on a full ring (R196, R197, R271) -/

section
namespace Sys2Proof.Machine

/-- With a RESEND in progress, the agent's step is RESEND's (R70 item 3). -/
theorem agentStep_of_resend {s : State} {c : ResendCtx} (line : s.line = .resend c) :
    agentStep s = resendStep c s := by
  simp [agentStep, line]

/-- Putting in progress what is in progress changes nothing. -/
theorem with_line_self {s : State} {l : LineCtx} (h : s.line = l) : { s with line := l } = s := by subst h; rfl

/-- Under the exact view a RESEND held on a full ring goes on holding, or drops its byte with `abort = 1` (R196). -/
theorem resendStep_of_full {s : State} {c : ResendCtx} {b : Byte} (exactView : s.cfg.xsideView = .exact)
    (line : s.line = .resend c) (tx : c.tx = some ⟨b, .wait⟩) (lt : c.ri < c.rlen)
    (full : ringFull s.txh s.txt s.cfg.txCap = true) :
    resendStep c s = .next
      (if s.abort = true then ⟨{ s with line := resendAt c.rlen (c.ri + 1) }, false⟩ else ⟨s, true⟩) := by
  have seen : s.txTailSeen = s.txt := seenIndex_exact exactView _ _
  have same : { c with tx := some ⟨b, .wait⟩ } = c := by rw [← tx]
  rw [resendStep, if_pos lt, resendTxw, tx]
  simp only [txwStep_wait_full b (seen ▸ full), txTailRead_exact exactView, andThen_next]
  split
  · rfl
  · simp only [afterResendTxw, same, with_line_self line]

section
variable {s : State} {c : ResendCtx} {b : Byte} (exactView : s.cfg.xsideView = .exact) (up : s.up = true)
  (sched : s.sched = []) (line : s.line = .resend c) (tx : c.tx = some ⟨b, .wait⟩) (lt : c.ri < c.rlen)
  (full : ringFull s.txh s.txt s.cfg.txCap = true)
include exactView up sched line tx lt full

/-- R197: while nothing frees it, a step of a held RESEND leaves the whole block as it is. -/
theorem step_of_heldResend (low : s.abort = false) (quiet : nothingServable s) : step s = .next s := by
  have holds : agentStep s = .next ⟨s, true⟩ := by
    rw [agentStep_of_resend line, resendStep_of_full exactView line tx lt full, low]
    rfl
  rw [step_of_unscheduled up (.inr (by simp [line])) sched, agentTurn_of_hold holds rfl,
    serveWaiting_of_nothingServable quiet]

/-- R196: `abort = 1` drops the byte of a held RESEND. -/
theorem step_of_abortedResend (high : s.abort = true) :
    step s = .next { s with line := resendAt c.rlen (c.ri + 1) } := by
  refine step_of_progress up (.inr (by simp [line])) sched ?_
  rw [agentStep_of_resend line, resendStep_of_full exactView line tx lt full, if_pos high]

end

/-- Settles O43: a step that leaves the state as it is, repeated. -/
theorem heldResendHoldsTheBlock : Obligations.HeldResendHoldsTheBlock := by
  unfold Obligations.HeldResendHoldsTheBlock
  intro s c b plain up sched line tx lt full low quiet n
  exact runs_of_step_self (step_of_heldResend plain.2 up sched line tx lt full low quiet) n

/-- Settles O44: the TXW of the byte finishes ABORTED, and RESEND stands at the next byte. -/
theorem abortFreesHeldResend : Obligations.AbortFreesHeldResend := by
  unfold Obligations.AbortFreesHeldResend
  intro s c b plain up sched line tx lt full high
  exact step_of_abortedResend plain.2 up sched line tx lt full high

end Sys2Proof.Machine
end

/-! ## O42: RESEND on a ring with room for the cached frame (R77, R195, R199) -/

section
namespace Sys2Proof.Machine

/-- A ring holds as many bytes as its occupancy says (R33). -/
theorem RingView.length_bytes (r : RingView) : r.bytes.length = occ r.head r.tail r.cap := by simp [RingView.bytes]

/-- A ring with a free slot left is not full (R33). -/
theorem RingView.InRange.room_of_length {r : RingView} (h : r.InRange) (lt : r.bytes.length < r.cap - 1) :
    r.full = false := by
  rw [r.length_bytes] at lt
  exact Bool.eq_false_iff.2 fun full => lt.ne (h.full_iff_occ.1 full)

theorem RingView.InRange.push {r : RingView} (h : r.InRange) (b : Byte) : (r.push b).InRange :=
  ⟨h.two, nextSlot_lt (Nat.zero_lt_of_lt h.tail), h.tail⟩

/-- Under the exact view a commit writes the byte, the head and the enable, and nothing else (R122). -/
theorem committed_exact {s : State} (exactView : s.cfg.xsideView = .exact) (b : Byte) :
    s.committed b =
      { s with txbuf := Mem.write s.txbuf s.txh b, txh := nextSlot s.txh s.cfg.txCap, txie := true } := by
  simp [State.committed, State.setTxH, remember, exactView]

/-- R195: with room in the ring RESEND commits the byte at its cursor in one step. -/
theorem resendStep_of_room {s : State} {rlen ri : Nat} (plain : Plain s) (inRange : s.txRing.InRange)
    (room : s.txRing.full = false) (lt : ri < rlen) (fits : ri < s.cfg.frameCap) :
    resendStep ⟨rlen, ri, none⟩ s = .next
      ⟨{ s.committed (cellValue s .kc s.kc ri) with line := resendAt rlen (ri + 1) }, false⟩ := by
  obtain ⟨oneStep, exactView⟩ := plain
  have seen : s.txTailSeen = s.txt := seenIndex_exact exactView _ _
  have commits : resendTxw ⟨rlen, ri, none⟩ s = .next (.done .ok, s.committed (cellValue s .kc s.kc ri)) := by
    rw [resendTxw, readCell_next (by simpa using fits), andThen_next, txwFirst, oneStep]
    exact (txwStep_wait_room _ inRange.head (seen ▸ room)).trans (by rw [txTailRead_exact exactView])
  rw [resendStep, if_pos lt, commits, andThen_next, afterResendTxw]

/-- The cached frame up to and with its byte `ri` (R24). -/
theorem cachedFrame_take_succ {s : State} {ri : Nat} (lt : ri < s.klen) :
    (cachedFrame s).take (ri + 1) = (cachedFrame s).take ri ++ [cellValue s .kc s.kc ri] := by
  rw [List.take_add_one, List.getElem?_eq_getElem (by simpa [cachedFrame] using lt)]
  simp [cachedFrame]

/-- A RESEND that began from `s` and has committed the first `ri` bytes of the cached frame. -/
structure Resending (s : State) (ri : Nat) (t : State) : Prop where
  state : t = { s with txbuf := t.txbuf, txh := t.txh, txie := if 0 < ri then true else s.txie
                       line := resendAt s.klen ri }
  inRange : t.txRing.InRange
  appended : bufferedTx t = bufferedTx s ++ (cachedFrame s).take ri

section
variable {s t : State} {ri : Nat}

/-- Before the first byte nothing is committed. -/
theorem Resending.begun (h : BlockInv s) : Resending s 0 { s with line := resendAt s.klen 0 } :=
  ⟨rfl, h.stored.rings.1, (List.append_nil _).symm⟩

/-- While bytes of the frame are left, the free slots `s` had for all of it leave one for the next. -/
theorem Resending.room (h : Resending s ri t) (fits : s.klen ≤ avail s.txh s.txt s.cfg.txCap) (lt : ri < s.klen) :
    t.txRing.full = false := by
  have cap : t.txRing.cap = s.cfg.txCap := by rw [h.state]; rfl
  have before : (bufferedTx s).length = occ s.txh s.txt s.cfg.txCap := s.txRing.length_bytes
  have frame : (cachedFrame s).length = s.klen := by simp [cachedFrame]
  have length : t.txRing.bytes.length = occ s.txh s.txt s.cfg.txCap + ri := by
    rw [← bufferedTx_eq, h.appended, List.length_append, before, List.length_take, frame, Nat.min_eq_left lt.le]
  refine h.inRange.room_of_length ?_
  rw [length, cap]
  unfold avail at fits
  omega

variable (up : s.up = true) (inv : BlockInv s) (plain : Plain s) (sched : s.sched = [])
  (fits : s.klen ≤ avail s.txh s.txt s.cfg.txCap)
include up inv plain sched fits

/-- One step commits the next byte of the cached frame. -/
theorem Resending.next (h : Resending s ri t) (lt : ri < s.klen) :
    ∃ t', step t = .next t' ∧ Resending s (ri + 1) t' := by
  have room := h.room fits lt
  have line : t.line = .resend ⟨s.klen, ri, none⟩ := by rw [h.state]; exact if_pos lt
  have plainT : Plain t := by rw [h.state]; exact plain
  have byte : cellValue t .kc t.kc ri = cellValue s .kc s.kc ri := by rw [h.state]; rfl
  have inCache : ri < t.cfg.frameCap := by rw [h.state]; exact lt.trans_le inv.cache.klen
  have commits := resendStep_of_room plainT h.inRange room lt inCache
  rw [byte] at commits
  refine ⟨_, step_of_progress ?up (.inr (by simp [line])) ?sched ((agentStep_of_resend line).trans commits),
    ?state, h.inRange.push _, ?appended⟩
  case up => rw [h.state]; exact up
  case sched => rw [h.state]; exact sched
  case state => rw [committed_exact plainT.2, h.state]; simp
  case appended =>
    rw [cachedFrame_take_succ lt, ← List.append_assoc, ← h.appended]
    exact h.inRange.bytes_push room _

/-- The `n` bytes left are committed in `n` steps. -/
theorem Resending.rest {n : Nat} (h : Resending s ri t) (left : ri + n = s.klen) :
    ∃ t', runs n t = .next t' ∧ Resending s s.klen t' := by
  induction n generalizing ri t with
  | zero => exact ⟨t, rfl, left ▸ h⟩
  | succ n ih =>
    obtain ⟨t', first, h'⟩ := h.next up inv plain sched fits (by omega)
    obtain ⟨u, others, hu⟩ := ih h' (by omega)
    exact ⟨u, runs_step first others, hu⟩

end

/-- Settles O42: TICK begins the RESEND, and each of the `KLEN` steps commits the next byte of the cached frame. -/
theorem resendAppendsCachedFrame : Obligations.ResendAppendsCachedFrame := by
  unfold Obligations.ResendAppendsCachedFrame
  intro s ready inv plain sched valid fits
  obtain ⟨u, sends, h⟩ := (Resending.begun inv).rest ready.1 inv plain sched fits (Nat.zero_add _)
  have finished : resendAt s.klen s.klen = s.line := (if_neg (Nat.lt_irrefl _)).trans ready.2.symm
  have whole : (cachedFrame s).take s.klen = cachedFrame s := List.take_of_length_le (by simp [cachedFrame])
  refine ⟨_, u, exec_tick_of_valid ready valid, sends, ?state, ?appended, ?enabled⟩
  case state =>
    have state := h.state
    rw [finished] at state
    rw [state]
  case appended => rw [h.appended, whole]
  case enabled => rw [h.state]

end Sys2Proof.Machine
end

/-! ## O57: what SEND, REQUEST and SETCMD stand for (R210, R212, R217) -/

section
namespace Sys2Proof.Machine

/-- R210: SEND of a payload BUILD accepts stores the frame before it streams it. -/
theorem sendItems_of_fits {p : Config.Params} {payload : List Byte} (fits : payload.length ≤ p.payloadMax) :
    sendItems p payload = .build payload :: .store (frameOf p payload) :: (frameOf p payload).map .txw :=
  if_pos (payloadFits_iff.2 fits)

/-- R210: SEND stops after the BUILD that refuses the payload. -/
theorem sendItems_of_tooLong {p : Config.Params} {payload : List Byte} (tooLong : p.payloadMax < payload.length) :
    sendItems p payload = [.build payload] :=
  if_neg fun fits => Nat.not_le.2 tooLong (payloadFits_iff.1 fits)

/-- R217: a command payload is the identifier and the four bytes of the value. -/
@[simp] theorem commandPayload_length (id : Byte) (v : BitVec 32) : (commandPayload id v).length = 5 := rfl

/-- R91, R217: the five bytes of a command payload go in a short frame, which adds five of its own. -/
theorem commandFrame_length (p : Config.Params) (id : Byte) (v : BitVec 32) : (commandFrame p id v).length = 10 := by
  have short : (commandPayload id v).length ≤ 255 := by simp
  rw [commandFrame, frameOf_short p short, shortFrame_length, commandPayload_length]

/-- Settles O57: SEND by the two sides of BUILD's bound on the payload, a command's frame by its length; REQUEST and SETCMD
are their definitions. -/
theorem pseudoOperationsExpand : Obligations.PseudoOperationsExpand := by
  unfold Obligations.PseudoOperationsExpand
  intro p payload id v _
  refine ⟨sendItems_of_fits, sendItems_of_tooLong, ?request, ?setcmd, commandFrame_length p id v⟩
  case request => rfl
  case setcmd => rfl

end Sys2Proof.Machine
end

/-! ## O58: what the host makes of a RECV result (R213, R215) -/

section
namespace Sys2Proof.Machine

/-- R106: a result is usable when its status is OK, and only then. -/
theorem Response.usable_iff {r : Response} : r.usable = true ↔ r.status = .ok := beq_iff_eq

/-- R213: a result with another status than OK is a Failure with that status. -/
theorem hostVerdict_of_unusable {p : Config.Params} {r : Response} (failed : r.status ≠ .ok) :
    hostVerdict p r = .noUsableResponse r.status :=
  if_neg fun usable => failed (Response.usable_iff.1 usable)

/-- R215: the host dispatches an OK response on its first byte, and a GET_VALUES response on its length. -/
theorem hostVerdict_of_ok (p : Config.Params) (n : Nat) (id : Byte) (rest : List Byte) :
    hostVerdict p ⟨.ok, .bytes n (id :: rest)⟩ =
      if id = p.cmdGetValues then if 55 ≤ rest.length + 1 then .decode (id :: rest) else .shortResponse
      else .unknownCommand :=
  if_pos (Response.usable_iff.2 rfl)

/-- Settles O58: the three outcomes of the dispatch on an OK response, and the status test before it. -/
theorem hostTakesOnlyUsableResponses : Obligations.HostTakesOnlyUsableResponses := by
  unfold Obligations.HostTakesOnlyUsableResponses
  intro p n st id rest val
  rw [hostVerdict_of_ok]
  refine ⟨fun getValues enough => ?decoded, fun getValues short => ?tooShort, fun other => ?unknown,
    fun failed => hostVerdict_of_unusable failed⟩
  case decoded => rw [if_pos getValues, if_pos enough]
  case tooShort => rw [if_pos getValues, if_neg (Nat.not_le.2 short)]
  case unknown => rw [if_neg other]

end Sys2Proof.Machine
end

/-! ## O47: nothing begins before the first reset (R262) -/

section
namespace Sys2Proof.Machine

/-- R262: a request is refused before the first reset, whatever the operation would do. -/
theorem issue_beforeReset {i : Instr} {s : State} {body : State → Result State} (down : s.up = false) :
    issue i s body = .refused .beforeReset :=
  if_pos down

/-- R262: a line event is refused before the first reset; it does not wait in the environment. -/
theorem serve_beforeReset {i : Instr} {s : State} {body : State → Result State} (down : s.up = false) :
    serve i s body = .refused .beforeReset :=
  if_pos down

/-- Settles O47: every main-side item is a request, every line event is served, and both test for the reset first. -/
theorem refusedBeforeFirstReset : Obligations.RefusedBeforeFirstReset := by
  unfold Obligations.RefusedBeforeFirstReset
  rintro s i down (main | line)
  case inl => obtain ⟨_, he⟩ := exec_eq_issue main s; exact he.trans (issue_beforeReset down)
  case inr => obtain ⟨_, he⟩ := exec_eq_serve line s; exact he.trans (serve_beforeReset down)

end Sys2Proof.Machine
end

/-! ## O7: the extended frame BUILD emits (R92, R155) -/

section
namespace Sys2Proof.Machine

/-- R92: an extended frame is its three header bytes, the payload, and the three bytes after it. -/
theorem extFrame_eq_cons (p : List Byte) (crc : Half) : extFrame p crc =
    0x03#8 :: (BitVec.ofNat 16 p.length).extractLsb' 8 8 :: (BitVec.ofNat 16 p.length).extractLsb' 0 8 ::
      (p ++ [crc.extractLsb' 8 8, crc.extractLsb' 0 8, 0x03#8]) := rfl

/-- Settles O7: past the header an index counts into the payload, and past the payload into the last three bytes. -/
theorem extendedFrameLayout : Obligations.ExtendedFrameLayout := by
  unfold Obligations.ExtendedFrameLayout
  intro p payload long _
  rw [frameOf_ext p long]
  refine ⟨extFrame_length payload _, ?_⟩
  rw [extFrame_eq_cons]
  refine ⟨rfl, rfl, rfl, fun k hk => ?payload, ?checksumHigh, ?checksumLow, ?endMarker⟩
  case payload => rw [Nat.add_comm]; simp [List.getElem?_append_left hk]
  case checksumHigh | checksumLow | endMarker => simp

end Sys2Proof.Machine
end
